-- ==== Sys2Proof/Word.lean ====
section
/-! DEFINITION. The words of the EPD session controller: bytes, u16 coordinates, the 72-bit host request word. -/

namespace Sys2Proof

/-- A byte on the serial bus (00_scope.md section 5: "Bytes are 8 bits"). -/
abbrev Byte := BitVec 8

/-- A coordinate or a geometry value, `u16` (R5, R50). -/
abbrev U16 := BitVec 16

/-- The host request word `req` of format REQ72 (R50). -/
abbrev Req := BitVec 72

end Sys2Proof
end

