-- ==== Sys2Proof/Config.lean ====
section
/-! DEFINITION. What is constant for the life of an instance (R5, R6, R7, R19), and the free values the spec leaves open.
A parameter the spec leaves without a value has none here: it is part of ONE opaque constant, so every statement about the
machine holds for every value of it (log entry 2). -/

namespace Sys2Proof

/-- The level of a line: `low` = 0, `high` = 1 (R18, R81). -/
inductive Level where
  | low
  | high
  deriving DecidableEq, Repr, Inhabited

/-- `1 - l` of a level. -/
def Level.other : Level → Level
  | .low => .high
  | .high => .low

/-- The level as the bit the spec writes for it. -/
def Level.bit : Level → BitVec 1
  | .low => 0
  | .high => 1

/-- What the environment answers to a pin write or to a serial send (00_scope.md section 5, port primitives). -/
inductive Answer where
  | ok
  | fault
  deriving DecidableEq, Repr, Inhabited

/-- `CFG.LUT_SEL` in {FULL, PARTIAL} (R6). -/
inductive LutSel where
  | full
  | partialUpdate
  deriving DecidableEq, Repr, Inhabited

/-- The OPEN parameters without a default: constants of the instance whose values the spec leaves to the instance (R6). -/
structure OpenParams where
  /-- `CFG.SCAN_FLAGS`. -/
  scanFlags : Byte
  /-- `CFG.BOOSTER[0..2]`. -/
  booster : Vector Byte 3
  /-- `CFG.VCOM`. -/
  vcom : Byte
  /-- `CFG.DUMMY_LINE`. -/
  dummyLine : Byte
  /-- `CFG.GATE_TIME`. -/
  gateTime : Byte
  /-- `CFG.ENTRY_MODE`. -/
  entryMode : Byte
  /-- `CFG.LUT_FULL[0..29]`. -/
  lutFull : Vector Byte 30
  /-- `CFG.LUT_PARTIAL[0..29]`. -/
  lutPartial : Vector Byte 30
  /-- `CFG.LUT_SEL`. -/
  lutSel : LutSel
  deriving DecidableEq, Repr, Inhabited

/-- The configuration record of an instance (R19: "A model holds them in its configuration record, not in its state"). -/
structure Config where
  /-- `W`, display width in pixels (R5). -/
  width : U16
  /-- `H`, display height in pixels (R5). -/
  height : U16
  /-- `RESET_LOW_MS` (R7). -/
  resetLowMs : Nat
  /-- `RESET_HIGH_MS` (R7). -/
  resetHighMs : Nat
  /-- `BACKOFF_MS` (R7). -/
  backoffMs : Nat
  /-- `DC_CMD_LEVEL`: the level of the select line that means Command (R7, D11). -/
  dcCmdLevel : Level
  /-- `BUSY_TIMEOUT_MS` in {none} and the naturals: the bound of the busy wait (R7, D15). -/
  busyTimeoutMs : Option Nat
  /-- The parameters the spec leaves OPEN without a default. -/
  params : OpenParams
  deriving DecidableEq, Repr

/-- The ranges of R5: `8 <= W <= 2048`, `W mod 8 = 0`, `1 <= H <= 65535` (the upper bound of `H` is its width). -/
abbrev Config.Valid (c : Config) : Prop :=
  8 ≤ c.width.toNat ∧ c.width.toNat ≤ 2048 ∧ c.width.toNat % 8 = 0 ∧ 1 ≤ c.height.toNat

/-- `LUT`: `CFG.LUT_FULL` when `CFG.LUT_SEL = FULL` and `CFG.LUT_PARTIAL` otherwise (R6). -/
def Config.lut (c : Config) : Vector Byte 30 :=
  match c.params.lutSel with
  | .full => c.params.lutFull
  | .partialUpdate => c.params.lutPartial

/-- `UPDATE_CTRL2 = 0xC4`, the one configuration data byte the source gives (R6). -/
def Config.updateCtrl2 : Byte := 0xC4

/-- `DEFAULT_FILL = 0xFF`, the default fill value of clearFrameMemory (R7). -/
def Config.defaultFill : Byte := 0xFF

/-- The OPEN parameters of THIS instance: constant and unknown (U13, U17; log entry 2). -/
opaque Config.openParams : OpenParams

/-- The instance that `exec` and `step` run: the geometry and the timing figures the spec gives, the defaults of R7 for the wiring
polarity and the bound of the busy wait, the other OPEN parameters free (R5 to R7; log entries 1 and 3). -/
def Config.epd : Config where
  width := 128
  height := 250
  resetLowMs := 200
  resetHighMs := 200
  backoffMs := 50
  dcCmdLevel := .low
  busyTimeoutMs := some 5000
  params := Config.openParams

/-- FREE VALUE (U6): the level of an output line after a pin write that the environment answered with `fault`. -/
opaque Config.freeLevel : Nat → Level

/-- FREE VALUE (U5): how many bytes of a faulted send had reached the controller (cut to the payload's length where used). -/
opaque Config.freeDelivered : Nat → Nat

/-- FREE VALUE (R4): the environment's answer to a pin write once the listed answers are used up. -/
opaque Config.freePinAnswer : Nat → Answer

/-- FREE VALUE (R4): the environment's answer to a serial send once the listed answers are used up. -/
opaque Config.freeSendAnswer : Nat → Answer

/-- FREE VALUE (R85, U14): the busy level once the listed levels are used up. -/
opaque Config.freeBusy : Nat → Level

end Sys2Proof
end

