-- ==== Sys2Proof/Syntax.lean ====
section
/-! DEFINITION. The operations of the EPD session controller: one constructor per row of spec/opcode_table.json, the five
host operations of 44_session_ops.md and the fifteen wire operations of 43_encoder.md. -/

namespace Sys2Proof

/-- The four operand fields `a0` to `a3` of a host request word (R50). A host operation carries all four: the block
latches all four (R13), also those an opcode ignores. -/
structure Operands where
  a0 : U16
  a1 : U16
  a2 : U16
  a3 : U16
  deriving DecidableEq, Repr, Inhabited

/-- The operations. A host operation holds the operand fields of its request word (R51). A wire operation holds the
operands of its rule in 43_encoder.md; constants of the instance are no operands. -/
inductive Instr where
  /-- `INIT`, initialize() (R133); every operand bit is ignored. -/
  | init (a : Operands)
  /-- `CLEAR v`, clearFrameMemory(v) (R134); `v = a0[7:0]`. -/
  | clear (a : Operands)
  /-- `DISPLAY`, displayFrame() (R135). -/
  | display (a : Operands)
  /-- `SETAREA x0, y0, x1, y1`, setMemoryArea (R136). -/
  | setarea (a : Operands)
  /-- `SETPTR x, y`, setMemoryPointer (R137). -/
  | setptr (a : Operands)
  /-- Driver output control (R101). -/
  | driverOutputControl
  /-- Booster soft-start (R102). -/
  | boosterSoftStart
  /-- Write VCOM register (R103). -/
  | writeVcom
  /-- Set dummy line period (R104). -/
  | setDummyLine
  /-- Set gate time (R105). -/
  | setGateTime
  /-- Data entry mode (R106). -/
  | dataEntryMode
  /-- Write look-up table (R107). -/
  | writeLut
  /-- Set X address window, two pixel X coordinates (R108). -/
  | setXWindow (xStart xEnd : U16)
  /-- Set Y address window, two pixel rows (R109). -/
  | setYWindow (yStart yEnd : U16)
  /-- Set X address counter, a pixel X coordinate (R110). -/
  | setXCounter (x : U16)
  /-- Set Y address counter, a pixel row (R111). -/
  | setYCounter (y : U16)
  /-- Write RAM, the bitmap payload (R112). -/
  | writeRam (payload : List Byte)
  /-- Display update control 2 (R113). -/
  | displayUpdateControl2
  /-- Master activation (R114). -/
  | masterActivation
  /-- Terminate frame R/W (R115). -/
  | terminateFrameRw
  deriving DecidableEq, Repr

end Sys2Proof
end

