-- ==== Sys2Proof/Machine/Operands.lean ====
section
/-! DEFINITION. Every operand form of the spec: the four operand-to-byte forms of R57, the operand checks of R130, the
derived geometry constants of R5, and the pixel layout of R34. -/

namespace Sys2Proof.Machine

/-- `lo(v) = v & 0xFF` (R33, R116). -/
def lo (v : U16) : Byte := (v &&& 0xFF#16).setWidth 8

/-- `hi(v) = (v >> 8) & 0xFF` (R33, R116). -/
def hi (v : U16) : Byte := ((v >>> 8) &&& 0xFF#16).setWidth 8

/-- The u16 split `[lo(v), hi(v)]`, low byte first (R33, R57 a). -/
def splitU16 (v : U16) : List Byte := [lo v, hi v]

/-- The u16 whose two bytes, low first, are given: the reading of `splitU16`. -/
def joinU16 (l h : Byte) : U16 := h ++ l

/-- The byte column `(x >> 3) & 0xFF` of a pixel X coordinate (R36, R57 b). -/
def byteColumn (x : U16) : Byte := ((x >>> 3) &&& 0xFF#16).setWidth 8

/-- The leftmost pixel of a byte column: the reading of `byteColumn`. -/
def columnPixel (b : Byte) : U16 := b.setWidth 16 <<< 3

/-- `WB = W/8`, bytes per row (R5). -/
def rowBytes (c : Config) : Nat := c.width.toNat / 8

/-- `XMAX = W-1` (R5). -/
def xMax (c : Config) : U16 := c.width - 1

/-- `YMAX = H-1` (R5). -/
def yMax (c : Config) : U16 := c.height - 1

/-- `rep(WB, v)`, the payload of one row of clearFrameMemory (R57 d). -/
def fillRow (c : Config) (v : Byte) : List Byte := List.replicate (rowBytes c) v

/-- `fillValue = A[0][7:0]` of CLEAR (R13, R134). -/
def fillValue (a : Operands) : Byte := a.a0.extractLsb' 0 8

/-- SETAREA's operand check: `a0 <= a2 <= W-1` and `a1 <= a3 <= H-1` (R130). -/
def areaOk (c : Config) (a : Operands) : Bool :=
  decide (a.a0 ≤ a.a2) && decide (a.a2 ≤ xMax c) && decide (a.a1 ≤ a.a3) && decide (a.a3 ≤ yMax c)

/-- SETPTR's operand check: `a0 <= W-1` and `a1 <= H-1` (R130). -/
def pointerOk (c : Config) (a : Operands) : Bool :=
  decide (a.a0 ≤ xMax c) && decide (a.a1 ≤ yMax c)

/-- Where a pixel lies in its row of pixel data: the byte of the row, `x >> 3`, and the bit of that byte, `7 - (x & 7)`
(R34; the block itself never interprets pixel data). -/
def pixelPlace (x : U16) : Nat × Nat := ((x >>> 3).toNat, 7 - (x &&& 7).toNat)

end Sys2Proof.Machine
end

