-- ==== Sys2Proof/WellFormed.lean ====
section
/-! DEFINITION. Which operations their encoding carries without loss. The encoder is total (R117): an operation that fails
the check still has its meaning; the check says which operations the wire bytes determine. -/

namespace Sys2Proof

/-- An X coordinate the one byte of R57 (b) carries whole: a multiple of 8 (R36) below 2048 (R57). -/
def xCarried (x : U16) : Bool :=
  x &&& 7 == 0 && decide (x.toNat < 2048)

/-- The encoding determines the operation: X coordinates are carried whole (R108, R110), and a bitmap payload is not empty
(R112). Every request word is well-formed (R50: "any value is accepted"). -/
def Instr.wellFormed : Instr → Bool
  | .init _ => true
  | .clear _ => true
  | .display _ => true
  | .setarea _ => true
  | .setptr _ => true
  | .driverOutputControl => true
  | .boosterSoftStart => true
  | .writeVcom => true
  | .setDummyLine => true
  | .setGateTime => true
  | .dataEntryMode => true
  | .writeLut => true
  | .setXWindow xStart xEnd => xCarried xStart && xCarried xEnd
  | .setYWindow _ _ => true
  | .setXCounter x => xCarried x
  | .setYCounter _ => true
  | .writeRam payload => !payload.isEmpty
  | .displayUpdateControl2 => true
  | .masterActivation => true
  | .terminateFrameRw => true

end Sys2Proof
end

