-- ==== Sys2Proof/Decode.lean ====
section
/-! DEFINITION. The two encodings of 30_encoding.md: the host request word REQ72 and the wire frames WIRE. The decoders come
first, total and rejecting by name; then the encoder, written from the tables of R51 and R56; then the assembler of R61. -/

namespace Sys2Proof

open Machine (lo hi splitU16 joinU16 byteColumn columnPixel rowBytes)

/-- Mode of a TransactionFrame (R53). -/
inductive Mode where
  | command
  | data
  deriving DecidableEq, Repr

/-- A TransactionFrame, "the unit sent over the bus" (R53). -/
structure Frame where
  mode : Mode
  payload : List Byte
  deriving DecidableEq, Repr

/-- The encoding of a wire operation: its command byte and its data bytes (R54, R56). -/
structure WireCode where
  cmd : Byte
  data : List Byte
  deriving DecidableEq, Repr

/-- The encoding of an operation, in the format of its row. -/
inductive Code where
  /-- Format REQ72: a host request word. -/
  | request (req : Req)
  /-- Format WIRE: a command byte and its data bytes. -/
  | wire (w : WireCode)
  deriving DecidableEq, Repr

/-- Why a decoder refuses. -/
inductive DecodeError where
  /-- A host opcode in 0x05 to 0xFF (R58). -/
  | reservedOpcode
  /-- A command byte other than the fifteen of R56 (R59). -/
  | unknownCommand
  /-- The number of data bytes is not the one R56 declares for the command byte (R54). -/
  | dataLength
  /-- A Data frame that no Command frame precedes (R54). -/
  | dataFrameFirst
  /-- A Command frame whose payload is not exactly one byte, or a Data frame with none (R53, R54). -/
  | payloadLength
  /-- No frame at all. -/
  | noFrame
  deriving DecidableEq, Repr

/-- A decoder's answer. -/
inductive Decoded (α : Type) where
  | ok (x : α)
  | error (e : DecodeError)
  deriving DecidableEq, Repr

/-- The decoded value, if there is one. -/
def Decoded.toOption {α : Type} : Decoded α → Option α
  | .ok x => some x
  | .error _ => none

/-! ### Host opcodes (R51) -/

def opInit : Byte := 0x00
def opClear : Byte := 0x01
def opDisplay : Byte := 0x02
def opSetArea : Byte := 0x03
def opSetPtr : Byte := 0x04

/-! ### Decoders -/

/-- The host operation of an opcode and its operand fields; 0x05 to 0xFF are reserved (R51, R58). -/
def decodeHost (op : Byte) (a : Operands) : Decoded Instr :=
  if op = opInit then .ok (.init a)
  else if op = opClear then .ok (.clear a)
  else if op = opDisplay then .ok (.display a)
  else if op = opSetArea then .ok (.setarea a)
  else if op = opSetPtr then .ok (.setptr a)
  else .error .reservedOpcode

/-- `op = req[71:64]` (R50). -/
def reqOpcode (req : Req) : Byte := req.extractLsb' 64 8

/-- The operand fields `req[63:48]`, `req[47:32]`, `req[31:16]`, `req[15:0]` (R50). -/
def reqOperands (req : Req) : Operands where
  a0 := req.extractLsb' 48 16
  a1 := req.extractLsb' 32 16
  a2 := req.extractLsb' 16 16
  a3 := req.extractLsb' 0 16

/-- A host request word (R50, R51). -/
def decodeRequest (req : Req) : Decoded Instr :=
  decodeHost (reqOpcode req) (reqOperands req)

/-- `x` if the data bytes are as many as declared, and the error otherwise. -/
def whenLength (n : Nat) (data : List Byte) (x : Instr) : Decoded Instr :=
  if data.length = n then .ok x else .error .dataLength

/-- A command byte with its data bytes. The bytes of an operation without operands are constants of the instance: their
number is checked, as R54 says of a decoder, and their values are not. -/
def decodeWire (cmd : Byte) (data : List Byte) : Decoded Instr :=
  if cmd = 0x01 then whenLength 3 data .driverOutputControl
  else if cmd = 0x0C then whenLength 3 data .boosterSoftStart
  else if cmd = 0x2C then whenLength 1 data .writeVcom
  else if cmd = 0x3A then whenLength 1 data .setDummyLine
  else if cmd = 0x3B then whenLength 1 data .setGateTime
  else if cmd = 0x11 then whenLength 1 data .dataEntryMode
  else if cmd = 0x32 then whenLength 30 data .writeLut
  else if cmd = 0x44 then
    match data with
    | [s, e] => .ok (.setXWindow (columnPixel s) (columnPixel e))
    | _ => .error .dataLength
  else if cmd = 0x45 then
    match data with
    | [sl, sh, el, eh] => .ok (.setYWindow (joinU16 sl sh) (joinU16 el eh))
    | _ => .error .dataLength
  else if cmd = 0x4E then
    match data with
    | [x] => .ok (.setXCounter (columnPixel x))
    | _ => .error .dataLength
  else if cmd = 0x4F then
    match data with
    | [l, h] => .ok (.setYCounter (joinU16 l h))
    | _ => .error .dataLength
  else if cmd = 0x24 then
    match data with
    | [] => .error .dataLength
    | b :: bs => .ok (.writeRam (b :: bs))
  else if cmd = 0x22 then whenLength 1 data .displayUpdateControl2
  else if cmd = 0x20 then whenLength 0 data .masterActivation
  else if cmd = 0xFF then whenLength 0 data .terminateFrameRw
  else .error .unknownCommand

/-- An operation's encoding, in either format. -/
def decode : Code → Decoded Instr
  | .request req => decodeRequest req
  | .wire w => decodeWire w.cmd w.data

/-- A decoded first operation with the frames after it. -/
def Decoded.withRest (d : Decoded Instr) (rest : List Frame) : Decoded (Instr × List Frame) :=
  match d with
  | .ok i => .ok (i, rest)
  | .error e => .error e

/-- The first wire operation of a captured sequence of frames, and the frames after it: "A Data frame's payload is the data
bytes of the Command frame immediately before it" (R54). -/
def decodeFrames : List Frame → Decoded (Instr × List Frame)
  | [] => .error .noFrame
  | ⟨.data, _⟩ :: _ => .error .dataFrameFirst
  | ⟨.command, [_]⟩ :: ⟨.data, []⟩ :: _ => .error .payloadLength
  | ⟨.command, [cmd]⟩ :: ⟨.data, b :: bs⟩ :: rest => (decodeWire cmd (b :: bs)).withRest rest
  | ⟨.command, [cmd]⟩ :: rest => (decodeWire cmd []).withRest rest
  | ⟨.command, _⟩ :: _ => .error .payloadLength

/-- `n` of R56: how many data bytes a command byte has; `WB` for 0x24, "in every use". -/
def declaredLength (c : Config) (cmd : Byte) : Nat :=
  if cmd = 0x01 then 3
  else if cmd = 0x0C then 3
  else if cmd = 0x2C then 1
  else if cmd = 0x3A then 1
  else if cmd = 0x3B then 1
  else if cmd = 0x11 then 1
  else if cmd = 0x32 then 30
  else if cmd = 0x44 then 2
  else if cmd = 0x45 then 4
  else if cmd = 0x4E then 1
  else if cmd = 0x4F then 2
  else if cmd = 0x24 then rowBytes c
  else if cmd = 0x22 then 1
  else 0

/-- Byte `k` of a table word: bits `8k+7 .. 8k`. -/
def tableByte (w k : Nat) : Byte := BitVec.ofNat 8 (w >>> (8 * k))

/-- The wire encoding a table word of `nbits` bits stands for: its first byte is the command byte, the bytes after it are
data, and the data bytes it lacks are zero. -/
def tableWire (nbits w : Nat) : WireCode :=
  let cmd := tableByte w 0
  let given := (List.range (nbits / 8 - 1)).map fun k => tableByte w (k + 1)
  ⟨cmd, given ++ List.replicate (declaredLength Config.epd cmd - given.length) 0⟩

/-- The host's probe: the operation this decoder reads from a word of the opcode table, by the table's numbering of bits. A
row of 72 bits is a request word, a row of whole bytes a wire operation. -/
def decodeTableWord (nbits w : Nat) : Option Instr :=
  if nbits = 72 then (decodeRequest (BitVec.ofNat 72 w)).toOption
  else (decode (.wire (tableWire nbits w))).toOption

/-! ### Encoder: the Register Protocol Encoder of 43_encoder.md, and the request words of R51 -/

/-- R101: `CMD(0x01); DATA([lo(H-1), hi(H-1), CFG.SCAN_FLAGS])`. -/
def codeDriverOutputControl (c : Config) : WireCode :=
  ⟨0x01, splitU16 (Machine.yMax c) ++ [c.params.scanFlags]⟩

/-- R102: `CMD(0x0C); DATA(CFG.BOOSTER[0..2])`. -/
def codeBoosterSoftStart (c : Config) : WireCode :=
  ⟨0x0C, [c.params.booster[0], c.params.booster[1], c.params.booster[2]]⟩

/-- R103: `CMD(0x2C); DATA([CFG.VCOM])`. -/
def codeWriteVcom (c : Config) : WireCode := ⟨0x2C, [c.params.vcom]⟩

/-- R104: `CMD(0x3A); DATA([CFG.DUMMY_LINE])`. -/
def codeSetDummyLine (c : Config) : WireCode := ⟨0x3A, [c.params.dummyLine]⟩

/-- R105: `CMD(0x3B); DATA([CFG.GATE_TIME])`. -/
def codeSetGateTime (c : Config) : WireCode := ⟨0x3B, [c.params.gateTime]⟩

/-- R106: `CMD(0x11); DATA([CFG.ENTRY_MODE])`. -/
def codeDataEntryMode (c : Config) : WireCode := ⟨0x11, [c.params.entryMode]⟩

/-- R107: `CMD(0x32); DATA([LUT[0], ..., LUT[29]])`. -/
def codeWriteLut (c : Config) : WireCode := ⟨0x32, List.ofFn fun k : Fin 30 => c.lut[k]⟩

/-- R108: `CMD(0x44); DATA([(xStart >> 3) & 0xFF, (xEnd >> 3) & 0xFF])`. -/
def codeSetXWindow (xStart xEnd : U16) : WireCode := ⟨0x44, [byteColumn xStart, byteColumn xEnd]⟩

/-- R109: `CMD(0x45); DATA([lo(yStart), hi(yStart), lo(yEnd), hi(yEnd)])`. -/
def codeSetYWindow (yStart yEnd : U16) : WireCode := ⟨0x45, splitU16 yStart ++ splitU16 yEnd⟩

/-- R110: `CMD(0x4E); DATA([(x >> 3) & 0xFF])`. -/
def codeSetXCounter (x : U16) : WireCode := ⟨0x4E, [byteColumn x]⟩

/-- R111: `CMD(0x4F); DATA([lo(y), hi(y)])`. -/
def codeSetYCounter (y : U16) : WireCode := ⟨0x4F, splitU16 y⟩

/-- R112: `CMD(0x24); DATA(payload)`. -/
def codeWriteRam (payload : List Byte) : WireCode := ⟨0x24, payload⟩

/-- R113: `CMD(0x22); DATA([0xC4])`. -/
def codeDisplayUpdateControl2 : WireCode := ⟨0x22, [Config.updateCtrl2]⟩

/-- R114: `CMD(0x20)` and no Data frame. -/
def codeMasterActivation : WireCode := ⟨0x20, []⟩

/-- R115: `CMD(0xFF)` and no Data frame. -/
def codeTerminateFrameRw : WireCode := ⟨0xFF, []⟩

/-- The request word of an opcode and its operand fields (R50). -/
def packRequest (op : Byte) (a : Operands) : Req := op ++ a.a0 ++ a.a1 ++ a.a2 ++ a.a3

/-- The encoding of an operation under a configuration (R51, R56). -/
def encodeWith (c : Config) : Instr → Code
  | .init a => .request (packRequest opInit a)
  | .clear a => .request (packRequest opClear a)
  | .display a => .request (packRequest opDisplay a)
  | .setarea a => .request (packRequest opSetArea a)
  | .setptr a => .request (packRequest opSetPtr a)
  | .driverOutputControl => .wire (codeDriverOutputControl c)
  | .boosterSoftStart => .wire (codeBoosterSoftStart c)
  | .writeVcom => .wire (codeWriteVcom c)
  | .setDummyLine => .wire (codeSetDummyLine c)
  | .setGateTime => .wire (codeSetGateTime c)
  | .dataEntryMode => .wire (codeDataEntryMode c)
  | .writeLut => .wire (codeWriteLut c)
  | .setXWindow xStart xEnd => .wire (codeSetXWindow xStart xEnd)
  | .setYWindow yStart yEnd => .wire (codeSetYWindow yStart yEnd)
  | .setXCounter x => .wire (codeSetXCounter x)
  | .setYCounter y => .wire (codeSetYCounter y)
  | .writeRam payload => .wire (codeWriteRam payload)
  | .displayUpdateControl2 => .wire codeDisplayUpdateControl2
  | .masterActivation => .wire codeMasterActivation
  | .terminateFrameRw => .wire codeTerminateFrameRw

/-- The encoding of an operation on this instance. -/
def encode (i : Instr) : Code := encodeWith Config.epd i

/-- The frames of a wire encoding: the Command frame, then the Data frame when there are data bytes (R53: "an operation with
no data bytes sends no Data frame at all"). -/
def WireCode.frames (w : WireCode) : List Frame :=
  match w.data with
  | [] => [⟨.command, [w.cmd]⟩]
  | b :: bs => [⟨.command, [w.cmd]⟩, ⟨.data, b :: bs⟩]

/-! ### The opcode table's fixed bits (spec/opcode_table.json: match and mask) -/

/-- The fixed bits of a row of the opcode table. -/
structure OpcodeRow where
  width : Nat
  mask : Nat
  pattern : Nat
  deriving DecidableEq, Repr

/-- A word of the row's format has the row's fixed bits. -/
def OpcodeRow.fits (r : OpcodeRow) (width w : Nat) : Bool :=
  width == r.width && w &&& r.mask == r.pattern

/-- A REQ72 row: `req[71:64]` is fixed. -/
def requestRow (op : Nat) : OpcodeRow := ⟨72, 0xFF0000000000000000, op <<< 64⟩

/-- A WIRE row: the command byte is fixed. -/
def wireRow (cmd : Nat) : OpcodeRow := ⟨8, 0xFF, cmd⟩

/-- The row of the opcode table an operation stands in. -/
def Instr.row : Instr → OpcodeRow
  | .init _ => requestRow 0x00
  | .clear _ => requestRow 0x01
  | .display _ => requestRow 0x02
  | .setarea _ => requestRow 0x03
  | .setptr _ => requestRow 0x04
  | .driverOutputControl => wireRow 0x01
  | .boosterSoftStart => wireRow 0x0C
  | .writeVcom => wireRow 0x2C
  | .setDummyLine => wireRow 0x3A
  | .setGateTime => wireRow 0x3B
  | .dataEntryMode => wireRow 0x11
  | .writeLut => wireRow 0x32
  | .setXWindow _ _ => wireRow 0x44
  | .setYWindow _ _ => wireRow 0x45
  | .setXCounter _ => wireRow 0x4E
  | .setYCounter _ => wireRow 0x4F
  | .writeRam _ => wireRow 0x24
  | .displayUpdateControl2 => wireRow 0x22
  | .masterActivation => wireRow 0x20
  | .terminateFrameRw => wireRow 0xFF

/-- The bits of an encoding the opcode table numbers: the request word, or the command byte. -/
def Code.tableBits : Code → Nat × Nat
  | .request req => (72, req.toNat)
  | .wire w => (8, w.cmd.toNat)

/-! ### Assembler (R61) -/

/-- A line of a host program (R61). `clear none` is the pseudo-instruction `CLEAR` without operand. -/
inductive AsmLine where
  | init
  | clear (v : Option Byte)
  | display
  | setarea (x0 y0 x1 y1 : U16)
  | setptr (x y : U16)
  deriving DecidableEq, Repr

/-- The operation a line stands for: operand fields it does not use are zero (R50, R61). -/
def AsmLine.instr : AsmLine → Instr
  | .init => .init ⟨0, 0, 0, 0⟩
  | .clear v => .clear ⟨(v.getD Config.defaultFill).setWidth 16, 0, 0, 0⟩
  | .display => .display ⟨0, 0, 0, 0⟩
  | .setarea x0 y0 x1 y1 => .setarea ⟨x0, y0, x1, y1⟩
  | .setptr x y => .setptr ⟨x, y, 0, 0⟩

/-- The request word a line assembles to (R61). -/
def AsmLine.word (l : AsmLine) : Req :=
  match encode l.instr with
  | .request req => req
  | .wire _ => 0

/-- A text cut at every occurrence of a character. -/
def splitAtChar (c : Char) : List Char → List (List Char)
  | [] => [[]]
  | x :: xs =>
    if x = c then [] :: splitAtChar c xs
    else
      match splitAtChar c xs with
      | [] => [[x]]
      | l :: ls => (x :: l) :: ls

/-- A text without the spaces before and after it. -/
def trimSpaces (cs : List Char) : List Char :=
  ((cs.dropWhile (· == ' ')).reverse.dropWhile (· == ' ')).reverse

/-- The value of a digit, decimal or hexadecimal. -/
def digitValue (c : Char) : Option Nat :=
  let n := c.toNat
  if 48 ≤ n ∧ n ≤ 57 then some (n - 48)
  else if 65 ≤ n ∧ n ≤ 70 then some (n - 55)
  else if 97 ≤ n ∧ n ≤ 102 then some (n - 87)
  else none

/-- Digits to a base, added to what stands before them. -/
def digitsValue (base : Nat) : Nat → List Char → Option Nat
  | acc, [] => some acc
  | acc, c :: cs =>
    match digitValue c with
    | some d => if d < base then digitsValue base (acc * base + d) cs else none
    | none => none

/-- A number, "decimal or `0x` hexadecimal" (R61), below a bound. -/
def parseNumber (bound : Nat) (cs : List Char) : Option Nat :=
  let v :=
    match cs with
    | '0' :: 'x' :: d :: ds => digitsValue 16 0 (d :: ds)
    | d :: ds => digitsValue 10 0 (d :: ds)
    | [] => none
  v.bind fun n => if n < bound then some n else none

/-- A coordinate of a line. -/
def parseU16 (cs : List Char) : Option U16 := (parseNumber 65536 cs).map (BitVec.ofNat 16)

/-- The operands of a line, by its mnemonic (R61). -/
def parseOperands (mnemonic : List Char) (ops : List (List Char)) : Option AsmLine :=
  if mnemonic = ['I', 'N', 'I', 'T'] then
    if ops = [[]] then some .init else none
  else if mnemonic = ['C', 'L', 'E', 'A', 'R'] then
    match ops with
    | [[]] => some (.clear none)
    | [v] => (parseNumber 256 v).map fun n => .clear (some (BitVec.ofNat 8 n))
    | _ => none
  else if mnemonic = ['D', 'I', 'S', 'P', 'L', 'A', 'Y'] then
    if ops = [[]] then some .display else none
  else if mnemonic = ['S', 'E', 'T', 'A', 'R', 'E', 'A'] then
    match ops.map parseU16 with
    | [some x0, some y0, some x1, some y1] => some (.setarea x0 y0 x1 y1)
    | _ => none
  else if mnemonic = ['S', 'E', 'T', 'P', 'T', 'R'] then
    match ops.map parseU16 with
    | [some x, some y] => some (.setptr x y)
    | _ => none
  else none

/-- A line of a host program (R61): a mnemonic, then its operands with commas between them. -/
def parseLine (cs : List Char) : Option AsmLine :=
  let t := trimSpaces cs
  let mnemonic := t.takeWhile (· != ' ')
  parseOperands mnemonic ((splitAtChar ',' (t.dropWhile (· != ' '))).map trimSpaces)

/-- A host program, "one request per line" (R61), as the request words the host presents in order. -/
def assemble (text : List Char) : Option (List Req) :=
  ((splitAtChar '\n' text).mapM parseLine).map fun ls => ls.map AsmLine.word

end Sys2Proof
end

