-- ==== Sys2Proof/Machine/State.lean ====
section
/-! DEFINITION. The state of the EPD session controller (10_state.md), the trace of what it does (R9), and the inputs the host
and the environment give it (R4), as plain data. -/

namespace Sys2Proof.Machine

/-- The six values of `SESSION_STATE` (R10). -/
inductive SessionState where
  | uninitialized
  | resetting
  | configuring
  | idle
  | writingFrame
  | refreshing
  deriving DecidableEq, Repr

/-- The output pins of `PinWrite` (00_scope.md section 5). -/
inductive Pin where
  | rst
  | dc
  deriving DecidableEq, Repr

/-- The two events (R170). -/
inductive Notice where
  | reset
  | ready
  deriving DecidableEq, Repr

/-- `RESULT.class` (R17). -/
inductive RespClass where
  | ok
  | initError
  | ioError
  | refused
  deriving DecidableEq, Repr

/-- `RESULT.code` (R17): the causes BUS, GPIO, TIMEOUT of an abort and the codes STATE, PARAM, OP of a refusal. -/
inductive RespCode where
  | ok
  | bus
  | gpio
  | timeout
  | state
  | param
  | op
  deriving DecidableEq, Repr

/-- The `RESULT` register (R17). -/
structure Result where
  valid : Bool
  cls : RespClass
  code : RespCode
  deriving DecidableEq, Repr

/-- `LINE.CS`, abstract: "active / inactive" (R18). -/
inductive ChipSelect where
  | inactive
  | active
  deriving DecidableEq, Repr

/-- The configuration of a digital pin (R84: `configureAsInput()`). -/
inductive PinDirection where
  | input
  | output
  deriving DecidableEq, Repr

/-- The trace events of R9. `sendFault` carries besides the payload how many of its bytes had reached the controller (U5).
`sendCut` is the model's own event for a frame that block reset cuts (R192; log entry 9). -/
inductive Event where
  | pinWrite (p : Pin) (l : Level)
  | pinWriteFault (p : Pin) (l : Level)
  | send (bytes : List Byte)
  | sendFault (bytes : List Byte) (delivered : Nat)
  | sendCut (bytes : List Byte) (delivered : Nat)
  | busyRead (l : Level)
  | delay (ms : Nat)
  | event (e : Notice)
  | response (cls : RespClass) (code : RespCode)
  deriving DecidableEq, Repr

/-- The seven kinds of sub-step, the alphabet of micro-programs (R131). A `CMD` and a `DATA` carry, besides their bytes, the
wire operation they belong to (R54). -/
inductive SubStep where
  | state (s : SessionState)
  | rst (l : Level)
  | hold (ms : Nat)
  | cmd (op : Instr) (b : Byte)
  | data (op : Instr) (bytes : List Byte)
  | wait
  | emit (e : Notice)
  deriving DecidableEq, Repr

/-- The block-reset input at one step (R192): not asserted; asserted between two sub-steps; asserted while the send of the next
sub-step's frame is in progress, `delivered` of its bytes having been clocked out. -/
inductive ResetIn where
  | released
  | asserted
  | duringSend (delivered : Nat)
  deriving DecidableEq, Repr

/-- The machine. The fields to `busyPin` are the block's own state (10_state.md section 1). The others are the MODEL's: what the
host and the environment will do (R4), the counter of the free values, and the trace (R3, R9). -/
structure State where
  /-- `SESSION_STATE` (R10). -/
  session : SessionState
  /-- `RUNNING` (R16). -/
  running : Bool
  /-- `OP` (R13). -/
  op : Byte
  /-- `A[0..3]` (R13). -/
  a : Operands
  /-- `PC`, a natural number (R14). -/
  pc : Nat
  /-- `WAITCNT`, a natural number (R15). -/
  waitCnt : Nat
  /-- `RESULT` (R17). -/
  result : Result
  /-- `LINE.RST` (R18). -/
  lineRst : Level
  /-- `LINE.DC` (R18). -/
  lineDc : Level
  /-- `LINE.CS` (R18). -/
  lineCs : ChipSelect
  /-- How the BUSY pin is configured: an input, by construction; no operation writes it (R84, R190). -/
  busyPin : PinDirection
  /-- Host input: what it presents on the request port, in order. The first entry is what the port shows: a request word, which
  stays until it is taken, or `none`, nothing during one step in which the port is ready (R130, R140). -/
  reqs : List (Option Req)
  /-- Host input: the block reset at each coming step; not asserted once the list is used up (R192). -/
  resetIn : List ResetIn
  /-- Environment input: the answers to the coming pin writes (R4); free values once used up. -/
  pinAnswers : List Answer
  /-- Environment input: the answers to the coming serial sends (R4); free values once used up. -/
  sendAnswers : List Answer
  /-- Environment input: the levels of the coming busy reads (R81, R85); free values once used up. -/
  busyLevels : List Level
  /-- How many free values have been drawn. -/
  draws : Nat
  /-- The trace events so far, oldest first (R9). -/
  trace : List Event
  deriving DecidableEq, Repr

/-- Why the machine can stop. Both are states the spec gives no enabled step; no run from reset reaches one. -/
inductive Fault where
  /-- Raised by a host operation's meaning: `RUNNING = 1` and `PC > len(MP)`. Safe: R131 and R138 enable no step there, and "`PC`
  never wraps" (R14). -/
  | pcPastEnd
  /-- Raised by the sequencer: `RUNNING = 1` and `OP` is no host opcode. Safe: R130 latches only accepted opcodes. -/
  | reservedOperation
  deriving DecidableEq, Repr

/-- Why the model refuses. -/
inductive Refusal where
  /-- Raised by `exec` alone: the instruction has no meaning in the model yet. Safe. No arm of `exec` raises it. -/
  | notModelled (mnemonic : String)
  deriving DecidableEq, Repr

/-- An outcome of this machine. -/
abbrev Outcome := Host.Outcome State Fault Refusal

/-- The state after block reset of a block with the configuration `c` (R190). `op`, `a`, `result.cls` and `result.code` are unspecified there; the model names zero for
them (log entry 4). Nothing is presented, answered or traced yet. -/
def State.resetOf (c : Config) : State where
  session := .uninitialized
  running := false
  op := 0
  a := ⟨0, 0, 0, 0⟩
  pc := 0
  waitCnt := 0
  result := ⟨false, .ok, .ok⟩
  lineRst := .high
  lineDc := c.dcCmdLevel
  lineCs := .inactive
  busyPin := .input
  reqs := []
  resetIn := []
  pinAnswers := []
  sendAnswers := []
  busyLevels := []
  draws := 0
  trace := []

/-- The state after block reset of the instance. -/
def State.reset : State := State.resetOf Config.epd

end Sys2Proof.Machine
end

