-- ==== Sys2Proof/Machine/Flags.lean ====
section
/-! DEFINITION. The flags and status values of the block: the codes of SESSION_STATE and RESULT, the response word, the
class of an error, the ready signal and what the host can read. There are no arithmetic condition codes (R16). -/

namespace Sys2Proof.Machine

/-- The 3-bit code of `SESSION_STATE` (R10). -/
def SessionState.code : SessionState → BitVec 3
  | .uninitialized => 0
  | .resetting => 1
  | .configuring => 2
  | .idle => 3
  | .writingFrame => 4
  | .refreshing => 5

/-- The 2-bit code of `RESULT.class` (R17). -/
def RespClass.code : RespClass → BitVec 2
  | .ok => 0
  | .initError => 1
  | .ioError => 2
  | .refused => 3

/-- The 4-bit code of `RESULT.code` (R17). -/
def RespCode.code : RespCode → BitVec 4
  | .ok => 0
  | .bus => 1
  | .gpio => 2
  | .timeout => 3
  | .state => 4
  | .param => 5
  | .op => 6

/-- The response word: `rsp[7:6] = 0`, `rsp[5:4] = class`, `rsp[3:0] = code` (R52). -/
def rsp (cls : RespClass) (code : RespCode) : BitVec 8 := 0#2 ++ cls.code ++ code.code

/-- The class of an abort: InitError when `OP = INIT`, IoError for the other four (R161). -/
def classOf (op : Byte) : RespClass :=
  if op = opInit then .initError else .ioError

/-- `req_ready = not RUNNING` (R16, R22). -/
def State.reqReady (s : State) : Bool := !s.running

/-- `NeedsInit := (RUNNING = 0) and (SESSION_STATE != Idle)` (R20). -/
def State.needsInit (s : State) : Bool := !s.running && decide (s.session ≠ .idle)

/-- What the host reads at any time, without side effect (R22). -/
structure Status where
  session : BitVec 3
  valid : Bool
  cls : BitVec 2
  code : BitVec 4
  reqReady : Bool
  deriving DecidableEq, Repr

/-- The three read-only status values (R22). -/
def State.status (s : State) : Status where
  session := s.session.code
  valid := s.result.valid
  cls := s.result.cls.code
  code := s.result.code.code
  reqReady := s.reqReady

end Sys2Proof.Machine
end

