-- ==== Sys2Proof/Machine/MicroProgram.lean ====
section
/-! DEFINITION. The micro-programs: the flat lists of sub-steps of the five host operations (R131, R133 to R137), built from the
wire operations' encodings. -/

namespace Sys2Proof.Machine

/-- The sub-steps of a wire operation: "`CMD(b)` followed at once by `DATA(bytes)` when it has data bytes, and `CMD(b)` alone when
it has none" (R100). -/
def wireSubSteps (op : Instr) (w : WireCode) : List SubStep :=
  match w.data with
  | [] => [.cmd op w.cmd]
  | b :: bs => [.cmd op w.cmd, .data op (b :: bs)]

/-- The fixed configuration sequence, "in the exact order above" (R133). -/
def configSequence (c : Config) : List SubStep :=
  wireSubSteps .driverOutputControl (codeDriverOutputControl c) ++
  wireSubSteps .boosterSoftStart (codeBoosterSoftStart c) ++
  wireSubSteps .writeVcom (codeWriteVcom c) ++
  wireSubSteps .setDummyLine (codeSetDummyLine c) ++
  wireSubSteps .setGateTime (codeSetGateTime c) ++
  wireSubSteps .dataEntryMode (codeDataEntryMode c) ++
  wireSubSteps .writeLut (codeWriteLut c)

/-- `resetPulse()`: four sub-steps (R80). -/
def resetPulse (c : Config) : List SubStep :=
  [.rst .low, .hold c.resetLowMs, .rst .high, .hold c.resetHighMs]

/-- `SetWindow(x0, y0, x1, y1)`: X before Y, no WAIT (R118). -/
def setWindow (x0 y0 x1 y1 : U16) : List SubStep :=
  wireSubSteps (.setXWindow x0 x1) (codeSetXWindow x0 x1) ++
  wireSubSteps (.setYWindow y0 y1) (codeSetYWindow y0 y1)

/-- `SetPointer(x, y)`: X before Y, no WAIT (R118). -/
def setPointer (x y : U16) : List SubStep :=
  wireSubSteps (.setXCounter x) (codeSetXCounter x) ++
  wireSubSteps (.setYCounter y) (codeSetYCounter y)

/-- `MemWrite(col, row, bytes)`: set the pointer, wait idle, write (R39). -/
def memWrite (col : Byte) (row : U16) (bytes : List Byte) : List SubStep :=
  setPointer (columnPixel col) row ++ [.wait] ++ wireSubSteps (.writeRam bytes) (codeWriteRam bytes)

/-- The rows `row`, `row + 1`, ... of clearFrameMemory, `n` of them: each with its own pointer reset (R134, R204). -/
def clearRows (c : Config) (v : Byte) (row : Nat) : Nat → List SubStep
  | 0 => []
  | n + 1 => memWrite 0 (BitVec.ofNat 16 row) (fillRow c v) ++ clearRows c v (row + 1) n

/-- The micro-program of INIT (R133). -/
def initProgram (c : Config) : List SubStep :=
  [.state .resetting] ++ resetPulse c ++ [.emit .reset, .state .configuring] ++ configSequence c ++
  [.state .idle, .emit .ready]

/-- The micro-program of CLEAR (R134). -/
def clearProgram (c : Config) (a : Operands) : List SubStep :=
  [.state .writingFrame] ++ setWindow 0 0 (xMax c) (yMax c) ++ clearRows c (fillValue a) 0 c.height.toNat ++
  [.state .idle]

/-- The micro-program of DISPLAY (R135). -/
def displayProgram : List SubStep :=
  [.state .refreshing] ++
  wireSubSteps .displayUpdateControl2 codeDisplayUpdateControl2 ++
  wireSubSteps .masterActivation codeMasterActivation ++
  wireSubSteps .terminateFrameRw codeTerminateFrameRw ++
  [.wait, .state .idle]

/-- The micro-program of SETAREA (R136). -/
def setAreaProgram (a : Operands) : List SubStep :=
  [.state .writingFrame] ++ setWindow a.a0 a.a1 a.a2 a.a3 ++ [.state .idle]

/-- The micro-program of SETPTR (R137). -/
def setPtrProgram (a : Operands) : List SubStep :=
  [.state .writingFrame] ++ setPointer a.a0 a.a1 ++ [.wait, .state .idle]

/-- `MP = microprogram(OP, A, CFG)` (R131); a reserved opcode has none. -/
def microProgram (c : Config) (op : Byte) (a : Operands) : List SubStep :=
  if op = opInit then initProgram c
  else if op = opClear then clearProgram c a
  else if op = opDisplay then displayProgram
  else if op = opSetArea then setAreaProgram a
  else if op = opSetPtr then setPtrProgram a
  else []

/-- `MP[PC]` of the running operation (R14, R131). -/
def currentSubStep (c : Config) (s : State) : Option SubStep := (microProgram c s.op s.a)[s.pc]?

/-- A sub-step is a frame: a `CMD` or a `DATA` (R75). -/
def SubStep.isFrame : SubStep → Bool
  | .cmd _ _ => true
  | .data _ _ => true
  | _ => false

/-- The number of a frame within its operation, from 1, for the sub-step at index `pc` (R75). -/
def frameNumber (mp : List SubStep) (pc : Nat) : Nat := ((mp.take (pc + 1)).filter SubStep.isFrame).length

/-- The value the last `STATE` sub-step of a list writes, if it has one (R132). -/
def lastState : List SubStep → Option SessionState
  | [] => none
  | sub :: rest =>
    match lastState rest with
    | some x => some x
    | none =>
      match sub with
      | .state x => some x
      | _ => none

end Sys2Proof.Machine
end

