-- ==== Sys2Proof/Machine/Ops.lean ====
section
/-! DEFINITION. The shared operations of the block: the port primitives, the seven kinds of sub-step (R131), abort (the block's
exception, R164) and the recovery beside it, acceptance, completion, refusal, and block reset. Each takes the
configuration record as an argument; the instance is Config.epd. -/

namespace Sys2Proof.Machine

/-! ### Updates -/

/-- Trace events are added at the end (R9). -/
def State.log (s : State) (es : List Event) : State := { s with trace := s.trace ++ es }

/-- `PC <- PC + 1`. -/
def State.advance (s : State) : State := { s with pc := s.pc + 1 }

/-- One free value has been drawn. -/
def State.drawn (s : State) : State := { s with draws := s.draws + 1 }

/-- `LINE.RST` or `LINE.DC` takes a level (R18). -/
def State.setLine (s : State) (p : Pin) (l : Level) : State :=
  match p with
  | .rst => { s with lineRst := l }
  | .dc => { s with lineDc := l }

/-- `RESULT <- (valid = 1, class, code)` with the trace event `Response(class, code)`, in one step (R17). -/
def State.respond (s : State) (cls : RespClass) (code : RespCode) : State :=
  { s with result := ⟨true, cls, code⟩, trace := s.trace ++ [.response cls code] }

/-! ### The environment's answers -/

/-- The environment's answer to a pin write. -/
def pinAnswer (s : State) : Answer × State :=
  match s.pinAnswers with
  | r :: rest => (r, { s with pinAnswers := rest })
  | [] => (Config.freePinAnswer s.draws, s.drawn)

/-- The environment's answer to a serial send. -/
def sendAnswer (s : State) : Answer × State :=
  match s.sendAnswers with
  | r :: rest => (r, { s with sendAnswers := rest })
  | [] => (Config.freeSendAnswer s.draws, s.drawn)

/-- The level of the busy line at a read (R81, R85). -/
def busyLevel (s : State) : Level × State :=
  match s.busyLevels with
  | l :: rest => (l, { s with busyLevels := rest })
  | [] => (Config.freeBusy s.draws, s.drawn)

/-! ### Port primitives (00_scope.md section 5) -/

/-- `PinWrite(p, l)`: on `ok` the line holds the level; after a `fault` its level is unspecified (R18, U6). -/
def pinWrite (p : Pin) (l : Level) (s : State) : Answer × State :=
  match pinAnswer s with
  | (.ok, t) => (.ok, (t.setLine p l).log [.pinWrite p l])
  | (.fault, t) => (.fault, ((t.setLine p (Config.freeLevel t.draws)).drawn).log [.pinWriteFault p l])

/-- `setSelect(level)`: the `PinWrite(DC, level)` that opens a frame (R82). -/
def setSelect (l : Level) (s : State) : Answer × State := pinWrite .dc l s

/-- `SerSend(payload)`: chip-select is active from before the first byte to after the last, and inactive again after it, whether
it succeeded or not (R70, R72). Of a faulted send any number of bytes has reached the controller (R73, U5). -/
def serSend (payload : List Byte) (s : State) : Answer × State :=
  match sendAnswer { s with lineCs := .active } with
  | (.ok, t) => (.ok, { t.log [.send payload] with lineCs := .inactive })
  | (.fault, t) =>
    (.fault, { (t.drawn).log [.sendFault payload (min (Config.freeDelivered t.draws) payload.length)] with
      lineCs := .inactive })

/-- `BusyRead()`: one level, no state of the block written (R81). -/
def busyRead (s : State) : Level × State :=
  match busyLevel s with
  | (l, t) => (l, t.log [.busyRead l])

/-- `Delay(d)`: a trace event; no time passes in the model (R8, R176). -/
def delay (ms : Nat) (s : State) : State := s.log [.delay ms]

/-! ### Abort: the block's exception (R164), and the return from it (R166) -/

/-- `raise Abort(cause)`: RUNNING is cleared, RESULT and the response give the class of the operation and the cause, and nothing
else changes (R164). There is no return instruction: the way back is a full INIT, which is always accepted (R166). -/
def abort (cause : RespCode) (s : State) : State :=
  { s with running := false }.respond (classOf s.op) cause

/-! ### Sub-steps (R131) -/

/-- The level of the select line for a mode (R55). -/
def selectLevel (c : Config) : Mode → Level
  | .command => c.dcCmdLevel
  | .data => c.dcCmdLevel.other

/-- `SendFrame(mode, payload)` (R70): the select line is written first, for every frame; a fault there is GPIO and nothing is
sent; a fault of the send is BUS. -/
def sendFrame (c : Config) (f : Frame) (s : State) : State :=
  match setSelect (selectLevel c f.mode) s with
  | (.fault, t) => abort .gpio t
  | (.ok, t) =>
    match serSend f.payload t with
    | (.fault, u) => abort .bus u
    | (.ok, u) => u.advance

/-- `STATE(s)`: the only writer of SESSION_STATE; cannot fail (R11). -/
def stateStep (x : SessionState) (s : State) : State := { s with session := x }.advance

/-- `RST(l)` (R80). -/
def rstStep (l : Level) (s : State) : State :=
  match pinWrite .rst l s with
  | (.fault, t) => abort .gpio t
  | (.ok, t) => t.advance

/-- `HOLD(d)`; cannot fail (R80). -/
def holdStep (ms : Nat) (s : State) : State := (delay ms s).advance

/-- The bound test of the busy wait: `BUSY_TIMEOUT_MS != none and WAITCNT * BACKOFF_MS >= BUSY_TIMEOUT_MS` (R90). -/
def waitExpired (c : Config) (waitCnt : Nat) : Bool :=
  match c.busyTimeoutMs with
  | none => false
  | some t => decide (t ≤ waitCnt * c.backoffMs)

/-- `WAIT`, one iteration of the busy wait (R90). -/
def waitStep (c : Config) (s : State) : State :=
  match busyRead s with
  | (.low, t) => { t with waitCnt := 0 }.advance
  | (.high, t) =>
    if waitExpired c t.waitCnt then abort .timeout t
    else { delay c.backoffMs t with waitCnt := t.waitCnt + 1 }

/-- `EMIT(e)`; cannot fail (R170). -/
def emitStep (e : Notice) (s : State) : State := (s.log [.event e]).advance

/-- The effect of a sub-step (R131). -/
def runSubStep (c : Config) (sub : SubStep) (s : State) : State :=
  match sub with
  | .state x => stateStep x s
  | .rst l => rstStep l s
  | .hold ms => holdStep ms s
  | .cmd _ b => sendFrame c ⟨.command, [b]⟩ s
  | .data _ bytes => sendFrame c ⟨.data, bytes⟩ s
  | .wait => waitStep c s
  | .emit e => emitStep e s

/-! ### Acceptance, completion, refusal -/

/-- `refuse(code)`: RESULT and the response; nothing else changes (R139). -/
def refuse (code : RespCode) (s : State) : State := s.respond .refused code

/-- Acceptance: the latches, `PC <- 0`, `WAITCNT <- 0`, `RUNNING <- 1`, in one atomic step (R13). -/
def accept (op : Byte) (a : Operands) (s : State) : State :=
  { s with op := op, a := a, pc := 0, waitCnt := 0, running := true }

/-- Completion: `RUNNING <- 0`, the response (Ok, OK) (R138). -/
def complete (s : State) : State := { s with running := false }.respond .ok .ok

/-- The checks of R130 after the opcode's: the session state, then the operands; then acceptance. -/
def takeRequest (op : Byte) (a : Operands) (needsIdle operandsOk : Bool) (s : State) : State :=
  if needsIdle && decide (s.session ≠ .idle) then refuse .state s
  else if operandsOk then accept op a s
  else refuse .param s

/-- One step of a host operation. While nothing runs, its request is taken (R130); while it runs, its next sub-step is executed
(R131), and when `PC = len(MP)` it completes (R138). Past the end no step is enabled. -/
def hostOperation (c : Config) (op : Byte) (a : Operands) (needsIdle operandsOk : Bool) (mp : List SubStep)
    (s : State) : Outcome :=
  if s.running then
    match mp[s.pc]? with
    | some sub => .next (runSubStep c sub s)
    | none => if s.pc = mp.length then .next (complete s) else .fault .pcPastEnd
  else .next (takeRequest op a needsIdle operandsOk s)

/-! ### Wire operations -/

/-- The frame of a wire operation that is due: its Data frame when the sequencer stands at a `DATA` sub-step and the operation has
data bytes, and its Command frame otherwise (R54, R100). -/
def frameDue (c : Config) (w : WireCode) (s : State) : Frame :=
  match currentSubStep c s, w.data with
  | some (.data _ _), b :: bs => ⟨.data, b :: bs⟩
  | _, _ => ⟨.command, [w.cmd]⟩

/-- One step of a wire operation: the frame that is due is sent. An operation with data bytes takes two steps, its `CMD` and its
`DATA` sub-step, as every sub-step is one step (R3, R131). -/
def wireOperation (c : Config) (w : WireCode) (s : State) : Outcome := .next (sendFrame c (frameDue c w s) s)

/-- The operation the sequencer is in: at a frame the wire operation it belongs to, elsewhere the host operation latched in `OP`
and `A` (R131); none when `OP` is reserved. -/
def currentInstr (c : Config) (s : State) : Option Instr :=
  match currentSubStep c s with
  | some (.cmd op _) => some op
  | some (.data op _) => some op
  | _ => (decodeHost s.op s.a).toOption

/-! ### Block reset (R190, R192) -/

/-- Block reset: every register of the block as after reset, whatever was in progress; no port primitive, no event, no response.
The inputs and the trace stay. -/
def blockReset (c : Config) (s : State) : State :=
  { State.resetOf c with
    reqs := s.reqs
    resetIn := s.resetIn
    pinAnswers := s.pinAnswers
    sendAnswers := s.sendAnswers
    busyLevels := s.busyLevels
    draws := s.draws
    trace := s.trace }

/-- A send that block reset cuts: the select line has been written, and `delivered` bytes have been clocked out, "a frame in
transmission is cut at an unspecified byte" (R192). Had the select-line write faulted, there is no send to cut. -/
def cutSend (c : Config) (f : Frame) (delivered : Nat) (s : State) : State :=
  match setSelect (selectLevel c f.mode) s with
  | (.fault, t) => t
  | (.ok, t) => t.log [.sendCut f.payload (min delivered f.payload.length)]

/-- What is in transmission at the step in which block reset is asserted: the frame of the sub-step that is due, if the block is
running and it is a frame. -/
def cutFrame (c : Config) (delivered : Nat) (s : State) : State :=
  if s.running then
    match currentSubStep c s with
    | some (.cmd _ b) => cutSend c ⟨.command, [b]⟩ delivered s
    | some (.data _ bytes) => cutSend c ⟨.data, bytes⟩ delivered s
    | _ => s
  else s

end Sys2Proof.Machine
end

