-- ==== Sys2Proof/Machine/AddressOps.lean ====
section
/-! DEFINITION. The four addressing operations of the wire (43_encoder.md section 3). They are total on every u16 operand (R117).
Each meaning sends the frame of its operation that is due.
A meaning takes the configuration record (R19); `exec` runs that of the instance. -/

namespace Sys2Proof.Machine

/-- SET_X_WINDOW (R108). -/
def execSetXWindowOf (c : Config) (xStart xEnd : U16) (s : State) : Outcome := wireOperation c (codeSetXWindow xStart xEnd) s

/-- SET_X_WINDOW of the instance. -/
def execSetXWindow (xStart xEnd : U16) (s : State) : Outcome := execSetXWindowOf Config.epd xStart xEnd s

/-- SET_Y_WINDOW (R109). -/
def execSetYWindowOf (c : Config) (yStart yEnd : U16) (s : State) : Outcome := wireOperation c (codeSetYWindow yStart yEnd) s

/-- SET_Y_WINDOW of the instance. -/
def execSetYWindow (yStart yEnd : U16) (s : State) : Outcome := execSetYWindowOf Config.epd yStart yEnd s

/-- SET_X_COUNTER (R110). -/
def execSetXCounterOf (c : Config) (x : U16) (s : State) : Outcome := wireOperation c (codeSetXCounter x) s

/-- SET_X_COUNTER of the instance. -/
def execSetXCounter (x : U16) (s : State) : Outcome := execSetXCounterOf Config.epd x s

/-- SET_Y_COUNTER (R111). -/
def execSetYCounterOf (c : Config) (y : U16) (s : State) : Outcome := wireOperation c (codeSetYCounter y) s

/-- SET_Y_COUNTER of the instance. -/
def execSetYCounter (y : U16) (s : State) : Outcome := execSetYCounterOf Config.epd y s

end Sys2Proof.Machine
end

