-- ==== Sys2Proof/Machine/ConfigOps.lean ====
section
/-! DEFINITION. The seven configuration operations of the wire (43_encoder.md section 2). Each meaning sends the frame of its
operation that is due.
A meaning takes the configuration record (R19); `exec` runs that of the instance. -/

namespace Sys2Proof.Machine

/-- DRIVER_OUTPUT_CONTROL (R101). -/
def execDriverOutputControlOf (c : Config) (s : State) : Outcome := wireOperation c (codeDriverOutputControl c) s

/-- DRIVER_OUTPUT_CONTROL of the instance. -/
def execDriverOutputControl (s : State) : Outcome := execDriverOutputControlOf Config.epd s

/-- BOOSTER_SOFT_START (R102). -/
def execBoosterSoftStartOf (c : Config) (s : State) : Outcome := wireOperation c (codeBoosterSoftStart c) s

/-- BOOSTER_SOFT_START of the instance. -/
def execBoosterSoftStart (s : State) : Outcome := execBoosterSoftStartOf Config.epd s

/-- WRITE_VCOM (R103). -/
def execWriteVcomOf (c : Config) (s : State) : Outcome := wireOperation c (codeWriteVcom c) s

/-- WRITE_VCOM of the instance. -/
def execWriteVcom (s : State) : Outcome := execWriteVcomOf Config.epd s

/-- SET_DUMMY_LINE (R104). -/
def execSetDummyLineOf (c : Config) (s : State) : Outcome := wireOperation c (codeSetDummyLine c) s

/-- SET_DUMMY_LINE of the instance. -/
def execSetDummyLine (s : State) : Outcome := execSetDummyLineOf Config.epd s

/-- SET_GATE_TIME (R105). -/
def execSetGateTimeOf (c : Config) (s : State) : Outcome := wireOperation c (codeSetGateTime c) s

/-- SET_GATE_TIME of the instance. -/
def execSetGateTime (s : State) : Outcome := execSetGateTimeOf Config.epd s

/-- DATA_ENTRY_MODE (R106). -/
def execDataEntryModeOf (c : Config) (s : State) : Outcome := wireOperation c (codeDataEntryMode c) s

/-- DATA_ENTRY_MODE of the instance. -/
def execDataEntryMode (s : State) : Outcome := execDataEntryModeOf Config.epd s

/-- WRITE_LUT (R107). -/
def execWriteLutOf (c : Config) (s : State) : Outcome := wireOperation c (codeWriteLut c) s

/-- WRITE_LUT of the instance. -/
def execWriteLut (s : State) : Outcome := execWriteLutOf Config.epd s

end Sys2Proof.Machine
end

