-- ==== Sys2Proof/Machine/HostOps.lean ====
section
/-! DEFINITION. The five host operations (44_session_ops.md). Each meaning is one step of its operation: the request is taken, or
its next sub-step runs, or it completes. A meaning takes the configuration record (R19); `exec` runs that of the instance. -/

namespace Sys2Proof.Machine

/-- INIT (R133): legal in every session state, no operand check. -/
def execInitOf (c : Config) (a : Operands) (s : State) : Outcome := hostOperation c opInit a false true (initProgram c) s

/-- INIT of the instance. -/
def execInit (a : Operands) (s : State) : Outcome := execInitOf Config.epd a s

/-- CLEAR (R134): legal in Idle, no operand check. -/
def execClearOf (c : Config) (a : Operands) (s : State) : Outcome := hostOperation c opClear a true true (clearProgram c a) s

/-- CLEAR of the instance. -/
def execClear (a : Operands) (s : State) : Outcome := execClearOf Config.epd a s

/-- DISPLAY (R135): legal in Idle, no operand check. -/
def execDisplayOf (c : Config) (a : Operands) (s : State) : Outcome := hostOperation c opDisplay a true true displayProgram s

/-- DISPLAY of the instance. -/
def execDisplay (a : Operands) (s : State) : Outcome := execDisplayOf Config.epd a s

/-- SETAREA (R136): legal in Idle, its operands an address window (R130). -/
def execSetAreaOf (c : Config) (a : Operands) (s : State) : Outcome :=
  hostOperation c opSetArea a true (areaOk c a) (setAreaProgram a) s

/-- SETAREA of the instance. -/
def execSetArea (a : Operands) (s : State) : Outcome := execSetAreaOf Config.epd a s

/-- SETPTR (R137): legal in Idle, its operands a pixel of the display (R130). -/
def execSetPtrOf (c : Config) (a : Operands) (s : State) : Outcome :=
  hostOperation c opSetPtr a true (pointerOk c a) (setPtrProgram a) s

/-- SETPTR of the instance. -/
def execSetPtr (a : Operands) (s : State) : Outcome := execSetPtrOf Config.epd a s

end Sys2Proof.Machine
end

