-- ==== Sys2Proof/Machine/MemoryOps.lean ====
section
/-! DEFINITION. The memory and refresh operations of the wire (43_encoder.md section 4). Each meaning sends the frame of its
operation that is due.
A meaning takes the configuration record (R19); `exec` runs that of the instance. -/

namespace Sys2Proof.Machine

/-- WRITE_RAM (R112): any payload; the encoder does not split, pad or check it. -/
def execWriteRamOf (c : Config) (payload : List Byte) (s : State) : Outcome := wireOperation c (codeWriteRam payload) s

/-- WRITE_RAM of the instance. -/
def execWriteRam (payload : List Byte) (s : State) : Outcome := execWriteRamOf Config.epd payload s

/-- DISPLAY_UPDATE_CONTROL_2 (R113). -/
def execDisplayUpdateControl2Of (c : Config) (s : State) : Outcome := wireOperation c codeDisplayUpdateControl2 s

/-- DISPLAY_UPDATE_CONTROL_2 of the instance. -/
def execDisplayUpdateControl2 (s : State) : Outcome := execDisplayUpdateControl2Of Config.epd s

/-- MASTER_ACTIVATION (R114). -/
def execMasterActivationOf (c : Config) (s : State) : Outcome := wireOperation c codeMasterActivation s

/-- MASTER_ACTIVATION of the instance. -/
def execMasterActivation (s : State) : Outcome := execMasterActivationOf Config.epd s

/-- TERMINATE_FRAME_RW (R115). -/
def execTerminateFrameRwOf (c : Config) (s : State) : Outcome := wireOperation c codeTerminateFrameRw s

/-- TERMINATE_FRAME_RW of the instance. -/
def execTerminateFrameRw (s : State) : Outcome := execTerminateFrameRwOf Config.epd s

end Sys2Proof.Machine
end

