-- ==== Sys2Proof/Machine/Dispatch.lean ====
section
/-! DEFINITION. One arm per operation of the opcode table. -/

namespace Sys2Proof.Machine

def exec (i : Instr) (s : State) : Host.Outcome State Fault Refusal :=
  match i with
  -- host operations, format REQ72
  | .init a => Sys2Proof.Machine.execInit a s
  | .clear a => Sys2Proof.Machine.execClear a s
  | .display a => Sys2Proof.Machine.execDisplay a s
  | .setarea a => Sys2Proof.Machine.execSetArea a s
  | .setptr a => Sys2Proof.Machine.execSetPtr a s
  -- wire operations, format WIRE
  | .driverOutputControl => Sys2Proof.Machine.execDriverOutputControl s
  | .boosterSoftStart => Sys2Proof.Machine.execBoosterSoftStart s
  | .writeVcom => Sys2Proof.Machine.execWriteVcom s
  | .setDummyLine => Sys2Proof.Machine.execSetDummyLine s
  | .setGateTime => Sys2Proof.Machine.execSetGateTime s
  | .dataEntryMode => Sys2Proof.Machine.execDataEntryMode s
  | .writeLut => Sys2Proof.Machine.execWriteLut s
  | .setXWindow xStart xEnd => Sys2Proof.Machine.execSetXWindow xStart xEnd s
  | .setYWindow yStart yEnd => Sys2Proof.Machine.execSetYWindow yStart yEnd s
  | .setXCounter x => Sys2Proof.Machine.execSetXCounter x s
  | .setYCounter y => Sys2Proof.Machine.execSetYCounter y s
  | .writeRam payload => Sys2Proof.Machine.execWriteRam payload s
  | .displayUpdateControl2 => Sys2Proof.Machine.execDisplayUpdateControl2 s
  | .masterActivation => Sys2Proof.Machine.execMasterActivation s
  | .terminateFrameRw => Sys2Proof.Machine.execTerminateFrameRw s

end Sys2Proof.Machine
end

