-- ==== Sys2Proof/Machine/Sequencer.lean ====
section
/-! DEFINITION. What a block of any configuration does in one step (R5 to R7, R19), and where the sequencer stands to run a given
operation. -/

namespace Sys2Proof.Machine

/-- The meaning of an operation on a block with the configuration `c`; `exec` is that of the instance. -/
def execOf (c : Config) (i : Instr) (s : State) : Outcome :=
  match i with
  | .init a => execInitOf c a s
  | .clear a => execClearOf c a s
  | .display a => execDisplayOf c a s
  | .setarea a => execSetAreaOf c a s
  | .setptr a => execSetPtrOf c a s
  | .driverOutputControl => execDriverOutputControlOf c s
  | .boosterSoftStart => execBoosterSoftStartOf c s
  | .writeVcom => execWriteVcomOf c s
  | .setDummyLine => execSetDummyLineOf c s
  | .setGateTime => execSetGateTimeOf c s
  | .dataEntryMode => execDataEntryModeOf c s
  | .writeLut => execWriteLutOf c s
  | .setXWindow xStart xEnd => execSetXWindowOf c xStart xEnd s
  | .setYWindow yStart yEnd => execSetYWindowOf c yStart yEnd s
  | .setXCounter x => execSetXCounterOf c x s
  | .setYCounter y => execSetYCounterOf c y s
  | .writeRam payload => execWriteRamOf c payload s
  | .displayUpdateControl2 => execDisplayUpdateControl2Of c s
  | .masterActivation => execMasterActivationOf c s
  | .terminateFrameRw => execTerminateFrameRwOf c s

/-- The request on the port is taken: it leaves the port, and its operation's meaning makes the checks; a reserved opcode is
refused with OP before them (R130, R58). -/
def takeWord (c : Config) (req : Req) (s : State) : Outcome :=
  match decodeRequest req with
  | .ok i => execOf c i s
  | .error _ => .next (refuse .op s)

/-- While an operation runs, its one enabled step (R131, R138); while none runs, the request on the port is taken, and without one
the block waits (R190). -/
def sequencerStep (c : Config) (s : State) : Outcome :=
  if s.running then
    match currentInstr c s with
    | some i => execOf c i s
    | none => .fault .reservedOperation
  else
    match s.reqs with
    | some req :: rest => takeWord c req { s with reqs := rest }
    | none :: rest => .next { s with reqs := rest }
    | [] => .next s

/-- One step of a block with the configuration `c`: block reset when it is asserted, which "may be asserted at any time, takes effect
at once" (R192); otherwise the block's own step. With `BUSY_TIMEOUT_MS = none` a wait that never reads idle is an infinite run of
this step (R94). -/
def stepOf (c : Config) (s : State) : Outcome :=
  match s.resetIn with
  | .asserted :: rest => .next (blockReset c { s with resetIn := rest })
  | .duringSend delivered :: rest => .next (blockReset c (cutFrame c delivered { s with resetIn := rest }))
  | .released :: rest => sequencerStep c { s with resetIn := rest }
  | [] => sequencerStep c s

/-- A wire operation runs only as part of a host operation: the opcode, the operand latches, the session state and the position
of its Command frame in the first host operation that sends it. -/
def placeOf (i : Instr) : Option (Byte × Operands × SessionState × Nat) :=
  match i with
  | .driverOutputControl => some (opInit, ⟨0, 0, 0, 0⟩, .configuring, 7)
  | .boosterSoftStart => some (opInit, ⟨0, 0, 0, 0⟩, .configuring, 9)
  | .writeVcom => some (opInit, ⟨0, 0, 0, 0⟩, .configuring, 11)
  | .setDummyLine => some (opInit, ⟨0, 0, 0, 0⟩, .configuring, 13)
  | .setGateTime => some (opInit, ⟨0, 0, 0, 0⟩, .configuring, 15)
  | .dataEntryMode => some (opInit, ⟨0, 0, 0, 0⟩, .configuring, 17)
  | .writeLut => some (opInit, ⟨0, 0, 0, 0⟩, .configuring, 19)
  | .setXWindow xStart xEnd => some (opSetArea, ⟨xStart, 0, xEnd, 0⟩, .writingFrame, 1)
  | .setYWindow yStart yEnd => some (opSetArea, ⟨0, yStart, 0, yEnd⟩, .writingFrame, 3)
  | .setXCounter x => some (opSetPtr, ⟨x, 0, 0, 0⟩, .writingFrame, 1)
  | .setYCounter y => some (opSetPtr, ⟨0, y, 0, 0⟩, .writingFrame, 3)
  | .writeRam payload => some (opClear, ⟨(payload.headD 0).setWidth 16, 0, 0, 0⟩, .writingFrame, 10)
  | .displayUpdateControl2 => some (opDisplay, ⟨0, 0, 0, 0⟩, .refreshing, 1)
  | .masterActivation => some (opDisplay, ⟨0, 0, 0, 0⟩, .refreshing, 3)
  | .terminateFrameRw => some (opDisplay, ⟨0, 0, 0, 0⟩, .refreshing, 4)
  | .init _ => none
  | .clear _ => none
  | .display _ => none
  | .setarea _ => none
  | .setptr _ => none

/-- The sequencer at the Command frame of a wire operation; a state it cannot be placed in stays. -/
def placeAt (place : Option (Byte × Operands × SessionState × Nat)) (s : State) : State :=
  match place with
  | some (op, a, x, pc) => { s with op := op, a := a, session := x, pc := pc, waitCnt := 0, running := true, resetIn := [] }
  | none => s

end Sys2Proof.Machine
end

