-- ==== Sys2Proof/Machine/Step.lean ====
section
/-! DEFINITION. One step of the machine, and the placing of an operation where the next step runs it. -/

namespace Sys2Proof.Machine

/-- One step of the instance. -/
def step (s : State) : Host.Outcome State Fault Refusal := stepOf Config.epd s

/-- `s` with the operation of a table word where the next step runs it. A request word of 72 bits is presented on the port, which is
ready, and block reset is not asserted. A wire operation is no request: the sequencer is placed at its Command frame, in the first
host operation that sends it (log entry 10). -/
def State.withFetchWord (s : State) (nbits w : Nat) : State :=
  if nbits = 72 then { s with reqs := some (BitVec.ofNat 72 w) :: s.reqs, running := false, resetIn := [] }
  else
    match decodeTableWord nbits w with
    | some i => placeAt (placeOf i) s
    | none => s

end Sys2Proof.Machine
end

