-- ==== Sys2Proof/Safety.lean ====
section
/-! DEFINITION. The terms in which claims speak of runs: the frames of a trace (R9), the session-state edges of R11, the
invariant of the runs from reset, and what a request leads to (R130). -/

namespace Sys2Proof.Machine

/-- `n` steps, to the first that stops. -/
def iterate (f : State → Outcome) : Nat → State → Outcome
  | 0, s => .next s
  | n + 1, s =>
    match f s with
    | .next t => iterate f n t
    | .fault r => .fault r
    | .refused r => .refused r

/-- `n` steps of a block with the configuration `c`. -/
def runOf (c : Config) (n : Nat) (s : State) : Outcome := iterate (stepOf c) n s

/-- `n` steps of the machine. -/
def run (n : Nat) (s : State) : Outcome := iterate step n s

/-- The meaning of one operation run `n` times over: an operation of several sub-steps takes one step for each (R3). -/
def execTimes (i : Instr) (n : Nat) (s : State) : Outcome := iterate (exec i) n s

/-- The events of one frame that is sent: `C[b]` or `D[..]` of R9, the select line and then the bytes. -/
def frameEvents (c : Config) (f : Frame) : List Event := [.pinWrite .dc (selectLevel c f.mode), .send f.payload]

/-- `C[b]` (R9). -/
def cFrame (c : Config) (b : Byte) : List Event := frameEvents c ⟨.command, [b]⟩

/-- `D[b0 b1 ...]` (R9). -/
def dFrame (c : Config) (bytes : List Byte) : List Event := frameEvents c ⟨.data, bytes⟩

/-- The complete set of session-state transitions that operations perform (R11). -/
def sessionEdge (x y : SessionState) : Bool :=
  match x, y with
  | _, .resetting => true
  | .resetting, .configuring => true
  | .configuring, .idle => true
  | .idle, .writingFrame => true
  | .writingFrame, .idle => true
  | .idle, .refreshing => true
  | .refreshing, .idle => true
  | _, _ => false

/-- The operand check of a host opcode, as R130 lists it. -/
def operandsOk (c : Config) (op : Byte) (a : Operands) : Bool :=
  if op = opSetArea then areaOk c a
  else if op = opSetPtr then pointerOk c a
  else true

/-- What holds in every run from reset of a block with the configuration `c`. -/
structure State.InvOf (c : Config) (s : State) : Prop where
  /-- Between two steps no send is in progress (R18). -/
  chipSelect : s.lineCs = .inactive
  /-- The BUSY pin stays the input that construction made it (R84). -/
  busyInput : s.busyPin = .input
  /-- Only an accepted opcode runs (R130). -/
  opcode : s.running = true → s.op.toNat ≤ 4
  /-- Only checked operands run (R130). -/
  operands : s.running = true → operandsOk c s.op s.a = true
  /-- `PC` is a position of the micro-program or its end (R14). -/
  position : s.running = true → s.pc ≤ (microProgram c s.op s.a).length
  /-- Before its first sub-step an operation other than INIT is still in Idle (R130). -/
  entered : s.running = true → s.pc = 0 → s.op = opInit ∨ s.session = .idle
  /-- SESSION_STATE is what the last `STATE` sub-step executed has written (R11, R132). -/
  session : s.running = true → ∀ x, lastState ((microProgram c s.op s.a).take s.pc) = some x → s.session = x
  /-- WAITCNT counts only inside a `WAIT` (R15). -/
  waiting : s.running = true → s.waitCnt ≠ 0 → currentSubStep c s = some .wait
  /-- The accounted time stays below the bound plus one back-off (R93). -/
  bounded : ∀ t, c.busyTimeoutMs = some t → s.waitCnt * c.backoffMs < t + c.backoffMs
  /-- After an abort SESSION_STATE is not Idle (R165). -/
  aborted : s.running = false → s.result.cls = .initError ∨ s.result.cls = .ioError → s.session ≠ .idle

/-- What holds in every run from reset of the instance. -/
abbrev State.Inv (s : State) : Prop := s.InvOf Config.epd

end Sys2Proof.Machine
end

