-- ==== Sys2Proof/Certificates/Slice0/Obligations.lean ====
section
/-! DEFINITION. The statements for the provers. -/

open Sys2Proof Sys2Proof.Machine

namespace Sys2Proof.Claims

/-- Block reset is not asserted at the next step: nothing more is listed for it, or `released` is. -/
abbrev NoReset (s : State) : Prop := s.resetIn = [] ∨ ∃ rest, s.resetIn = .released :: rest

/-- The state whose block-reset input has moved on by one step. -/
def afterResetInput (s : State) : State := { s with resetIn := s.resetIn.tail }

/-- The sequencer stands at a `DATA` sub-step. -/
abbrev AtData (s : State) : Prop := ∃ op bytes, currentSubStep Config.epd s = some (.data op bytes)

/-- The frame `f` sent: the select line holds the frame's level, chip-select is inactive again, `PC` has moved by one, one answer
of each kind is used up, and the trace has the frame's two events. Nothing else is changed. -/
def frameSent (f : Frame) (ps ss : List Answer) (s : State) : State :=
  { s with
    lineDc := selectLevel Config.epd f.mode
    lineCs := .inactive
    pc := s.pc + 1
    pinAnswers := ps
    sendAnswers := ss
    trace := s.trace ++ [.pinWrite .dc (selectLevel Config.epd f.mode), .send f.payload] }

/-- An operation with data bytes: at its `CMD` sub-step, with a `DATA` sub-step after it and the environment answering `ok`, two
steps of its meaning send the Command frame `[b]` and the Data frame `bytes`, and change nothing else. -/
def SendsCommandAndData (i : Instr) (b : Byte) (bytes : List Byte) : Prop :=
  ∀ (s : State) (ps ss : List Answer), ¬ AtData s → AtData { s with pc := s.pc + 1 } →
    s.pinAnswers = .ok :: .ok :: ps → s.sendAnswers = .ok :: .ok :: ss →
    exec i s = .next (frameSent ⟨.command, [b]⟩ (.ok :: ps) (.ok :: ss) s) ∧
    exec i (frameSent ⟨.command, [b]⟩ (.ok :: ps) (.ok :: ss) s) =
      .next (frameSent ⟨.data, bytes⟩ ps ss (frameSent ⟨.command, [b]⟩ (.ok :: ps) (.ok :: ss) s))

/-- An operation without data bytes: with the environment answering `ok`, one step of its meaning sends the Command frame `[b]`, in
every state, and changes nothing else. -/
def SendsCommand (i : Instr) (b : Byte) : Prop :=
  ∀ (s : State) (ps ss : List Answer), s.pinAnswers = .ok :: ps → s.sendAnswers = .ok :: ss →
    exec i s = .next (frameSent ⟨.command, [b]⟩ ps ss s)

/-- A request accepted: the latches hold it, and the block runs from `PC = 0`. -/
def accepted (op : Byte) (a : Operands) (s : State) : State :=
  { s with op := op, a := a, pc := 0, waitCnt := 0, running := true }

/-- A request refused: RESULT and the response, nothing else. -/
def refused (code : RespCode) (s : State) : State :=
  { s with result := ⟨true, .refused, code⟩, trace := s.trace ++ [.response .refused code] }

/-- The class of an abort as R161 gives it: InitError for INIT (opcode 0x00), IoError for the other four. -/
def abortClass (op : Byte) : RespClass := if op = 0x00 then .initError else .ioError

/-- The trace of a wait that sees busy `k` times and then idle. -/
def waitEvents (k : Nat) : List Event :=
  (List.replicate k [Event.busyRead .high, .delay 50]).flatten ++ [.busyRead .low]

end Sys2Proof.Claims

open Sys2Proof.Claims

/-! ### Encodings -/

/-- 30_encoding.md sections 1 and 2: what a well-formed operation encodes to decodes to it again, every operand at every value
the encoding carries. -/
def Obligations.EncodedOperationsDecodeBack : Prop :=
  ∀ i : Instr, i.wellFormed = true → decode (encode i) = .ok i

/-- R50, R51: a request word that decodes is the encoding of what it decodes to; no bit of the 72 is dropped. -/
def Obligations.RequestWordDeterminesItsOperation : Prop :=
  ∀ (req : Req) (i : Instr), decodeRequest req = .ok i → encode i = .request req

/-- R53, R54: the frames of a well-formed wire operation, before any frames that do not begin with a Data frame, decode to it
and leave the rest. -/
def Obligations.WireFramesDecodeBack : Prop :=
  ∀ (i : Instr) (w : WireCode) (rest : List Frame), i.wellFormed = true → encode i = .wire w →
    (∀ bytes more, rest ≠ ⟨.data, bytes⟩ :: more) → decodeFrames (w.frames ++ rest) = .ok (i, rest)

/-- Words written out from the tables of R51 and R56 decode to the operations they stand for, and a reserved opcode and an
unknown command byte to none. -/
def Obligations.SpecWordsDecode : Prop :=
  decodeRequest 0x000000000000000000 = .ok (.init ⟨0, 0, 0, 0⟩) ∧
  decodeRequest 0x01AB3C000000000000 = .ok (.clear ⟨0xAB3C, 0, 0, 0⟩) ∧
  decodeRequest 0x020000000000000000 = .ok (.display ⟨0, 0, 0, 0⟩) ∧
  decodeRequest 0x0300000000007F00F9 = .ok (.setarea ⟨0, 0, 127, 249⟩) ∧
  decodeRequest 0x04004000C8BEEFCAFE = .ok (.setptr ⟨64, 200, 0xBEEF, 0xCAFE⟩) ∧
  decodeRequest 0x050000000000000000 = .error .reservedOpcode ∧
  decodeWire 0x44 [0x00, 0x0F] = .ok (.setXWindow 0 120) ∧
  decodeWire 0x45 [0x02, 0x01, 0x04, 0x03] = .ok (.setYWindow 0x0102 0x0304) ∧
  decodeWire 0x4F [0x00, 0x01] = .ok (.setYCounter 256) ∧
  decodeWire 0x20 [] = .ok .masterActivation ∧
  decodeWire 0x10 [0x01] = .error .unknownCommand

/-- R61 (the spec's own syntax, D24, D27): the request word every line form assembles to, and `CLEAR` alone as `CLEAR 0xFF`. -/
def Obligations.AssemblerLinesGiveTheirWords : Prop :=
  AsmLine.init.word = 0 ∧ AsmLine.display.word = 0x02#8 ++ 0#64 ∧
  (∀ v : Byte, (AsmLine.clear (some v)).word = 0x01#8 ++ 0#8 ++ v ++ 0#48) ∧
  AsmLine.clear none = .clear none ∧ (AsmLine.clear none).word = (AsmLine.clear (some 0xFF)).word ∧
  (∀ x0 y0 x1 y1 : U16, (AsmLine.setarea x0 y0 x1 y1).word = 0x03#8 ++ x0 ++ y0 ++ x1 ++ y1) ∧
  (∀ x y : U16, (AsmLine.setptr x y).word = 0x04#8 ++ x ++ y ++ 0#32)

/-! ### Operand forms -/

/-- R33, R116: the integer laws of the byte forms, and the derived constants of R5 on every valid geometry. -/
def Obligations.OperandBytesMeetTheIntegerLaws : Prop :=
  (∀ v : U16, v.toNat = (lo v).toNat + 256 * (hi v).toNat ∧ splitU16 v = [lo v, hi v] ∧ joinU16 (lo v) (hi v) = v ∧
    (byteColumn v).toNat = v.toNat / 8 % 256 ∧ ((byteColumn v).toNat = v.toNat / 8 ↔ v.toNat ≤ 2047)) ∧
  (∀ c : Config, c.Valid → (xMax c).toNat = c.width.toNat - 1 ∧ (yMax c).toNat = c.height.toNat - 1 ∧
    8 * rowBytes c = c.width.toNat ∧ ∀ v, (fillRow c v).length = rowBytes c)

/-- R36: the low three bits of an X coordinate do not affect what a wire operation does: an unaligned X is truncated, not refused. -/
def Obligations.UnalignedXIsTruncated : Prop :=
  ∀ (x y : U16) (s : State),
    exec (.setXCounter x) s = exec (.setXCounter (x &&& 0xFFF8)) s ∧
    exec (.setXWindow x y) s = exec (.setXWindow (x &&& 0xFFF8) (y &&& 0xFFF8)) s

/-- R34: pixel `x` of a row is bit `7 - (x mod 8)` of byte `x / 8`, inside the row on every valid geometry. -/
def Obligations.PixelsLieMostSignificantBitFirst : Prop :=
  ∀ (c : Config) (x : U16), c.Valid → x.toNat < c.width.toNat →
    pixelPlace x = (x.toNat / 8, 7 - x.toNat % 8) ∧ (pixelPlace x).1 < rowBytes c ∧ (pixelPlace x).2 < 8

/-! ### A step of the machine -/

/-- A step runs the decoded operation: the one the sequencer is in, or the one on the request port, which leaves the port; a
reserved opcode is refused with OP; without a request the block waits. -/
def Obligations.StepRunsTheDecodedOperation : Prop :=
  ∀ s : State, NoReset s →
    (∀ i, s.running = true → currentInstr Config.epd s = some i → step s = exec i (afterResetInput s)) ∧
    (∀ req rest i, s.running = false → s.reqs = some req :: rest → decodeRequest req = .ok i →
      step s = exec i { afterResetInput s with reqs := rest }) ∧
    (∀ req rest e, s.running = false → s.reqs = some req :: rest → decodeRequest req = .error e →
      step s = .next (refused .op { afterResetInput s with reqs := rest })) ∧
    (∀ rest, s.running = false → s.reqs = none :: rest → step s = .next { afterResetInput s with reqs := rest }) ∧
    (s.running = false → s.reqs = [] → step s = .next (afterResetInput s))

/-- While an operation runs, a step is one step of the meaning of the host operation latched in `OP` and `A`, also at the frames
that belong to a wire operation. -/
def Obligations.StepIsOneStepOfTheLatchedOperation : Prop :=
  ∀ (s : State) (i : Instr), NoReset s → s.running = true → decodeHost s.op s.a = .ok i →
    step s = exec i (afterResetInput s)

/-- R131: while an operation runs and `PC < len(MP)`, the only step executes `MP[PC]`, each kind of sub-step with its effect. -/
def Obligations.RunningBlockExecutesItsCurrentSubStep : Prop :=
  ∀ (s : State) (sub : SubStep), NoReset s → s.running = true → currentSubStep Config.epd s = some sub →
    step s = .next (match sub with
      | .state x => { afterResetInput s with session := x, pc := s.pc + 1 }
      | .rst l => rstStep l (afterResetInput s)
      | .hold ms => { afterResetInput s with pc := s.pc + 1, trace := s.trace ++ [.delay ms] }
      | .cmd _ b => sendFrame Config.epd ⟨.command, [b]⟩ (afterResetInput s)
      | .data _ bytes => sendFrame Config.epd ⟨.data, bytes⟩ (afterResetInput s)
      | .wait => waitStep Config.epd (afterResetInput s)
      | .emit e => { afterResetInput s with pc := s.pc + 1, trace := s.trace ++ [.event e] })

/-- R138 (D5): at `PC = len(MP)` the step completes the operation with (Ok, OK), the port is ready, and nothing else changes. -/
def Obligations.OperationCompletesAtItsEnd : Prop :=
  ∀ s : State, NoReset s → s.running = true → s.op.toNat ≤ 4 → s.pc = (microProgram Config.epd s.op s.a).length →
    step s = .next
      { afterResetInput s with
        running := false, result := ⟨true, .ok, .ok⟩, trace := s.trace ++ [.response .ok .ok] }

/-! ### Requests -/

/-- R130 (D7, D9, D10) with R139: a request on the ready port is taken by the three checks in their order; the first that fails
refuses it, with RESULT and the response and nothing else; otherwise it is latched and the block runs. -/
def Obligations.RequestIsTakenByTheThreeChecks : Prop :=
  ∀ (s : State) (req : Req) (rest : List (Option Req)), NoReset s → s.running = false → s.reqs = some req :: rest →
    let op := req.extractLsb' 64 8
    let a0 := req.extractLsb' 48 16
    let a1 := req.extractLsb' 32 16
    let a2 := req.extractLsb' 16 16
    let a3 := req.extractLsb' 0 16
    let t := { afterResetInput s with reqs := rest }
    step s = .next (
      if 4 < op.toNat then refused .op t
      else if op ≠ 0 ∧ s.session ≠ .idle then refused .state t
      else if op = 3 ∧ ¬ (a0.toNat ≤ a2.toNat ∧ a2.toNat ≤ 127 ∧ a1.toNat ≤ a3.toNat ∧ a3.toNat ≤ 249) then refused .param t
      else if op = 4 ∧ ¬ (a0.toNat ≤ 127 ∧ a1.toNat ≤ 249) then refused .param t
      else accepted op ⟨a0, a1, a2, a3⟩ t)

/-- R16, R96, R140: while an operation runs, no request is taken, the request on the port stays, and the latches hold. -/
def Obligations.RunningBlockTakesNoRequest : Prop :=
  ∀ s t : State, NoReset s → s.running = true → step s = .next t → t.reqs = s.reqs ∧ t.op = s.op ∧ t.a = s.a

/-- R190 (D20): what the latches and RESULT hold is never read before an acceptance writes it: two states, not running, that
differ only in `OP`, `A` and RESULT step to states that differ in nothing else, and in no latch once a request is accepted. -/
def Obligations.LatchesAreNotReadBeforeAcceptance : Prop :=
  ∀ (s t : State) (op : Byte) (a : Operands) (r : Result), s.running = false → step s = .next t →
    ∃ t', step { s with op := op, a := a, result := r } = .next t' ∧
      { t' with op := t.op, a := t.a, result := t.result } = t ∧ (t.running = true → t'.op = t.op ∧ t'.a = t.a)

/-! ### Wire operations -/

/-- R101 to R107: the seven configuration operations, each with its command byte and its data bytes; 250 rows give `H - 1 = 249`. -/
def Obligations.ConfigurationOperationsSendTheirFrames : Prop :=
  SendsCommandAndData .driverOutputControl 0x01 [0xF9, 0x00, Config.epd.params.scanFlags] ∧
  SendsCommandAndData .boosterSoftStart 0x0C
    [Config.epd.params.booster[0], Config.epd.params.booster[1], Config.epd.params.booster[2]] ∧
  SendsCommandAndData .writeVcom 0x2C [Config.epd.params.vcom] ∧
  SendsCommandAndData .setDummyLine 0x3A [Config.epd.params.dummyLine] ∧
  SendsCommandAndData .setGateTime 0x3B [Config.epd.params.gateTime] ∧
  SendsCommandAndData .dataEntryMode 0x11 [Config.epd.params.entryMode] ∧
  SendsCommandAndData .writeLut 0x32 Config.epd.lut.toList ∧ Config.epd.lut.toList.length = 30 ∧
  Config.epd.lut =
    (if Config.epd.params.lutSel = .full then Config.epd.params.lutFull else Config.epd.params.lutPartial) ∧
  (∀ c : Config, codeDriverOutputControl c =
    ⟨0x01, [((c.height - 1) &&& 0xFF#16).setWidth 8, (((c.height - 1) >>> 8) &&& 0xFF#16).setWidth 8, c.params.scanFlags]⟩)

/-- R108, R109: the window operations, on every u16 operand; the operand check keeps the X operands of a host request below
2048. -/
def Obligations.WindowOperationsSendTheirFrames : Prop :=
  (∀ a : Operands, areaOk Config.epd a = true → a.a0.toNat < 2048 ∧ a.a2.toNat < 2048) ∧
  ∀ v w : U16,
    SendsCommandAndData (.setXWindow v w) 0x44
      [((v >>> 3) &&& 0xFF#16).setWidth 8, ((w >>> 3) &&& 0xFF#16).setWidth 8] ∧
    SendsCommandAndData (.setYWindow v w) 0x45
      [(v &&& 0xFF#16).setWidth 8, ((v >>> 8) &&& 0xFF#16).setWidth 8,
        (w &&& 0xFF#16).setWidth 8, ((w >>> 8) &&& 0xFF#16).setWidth 8]

/-- R110, R111: the address-counter operations, on every u16 operand. -/
def Obligations.CounterOperationsSendTheirFrames : Prop :=
  ∀ v : U16,
    SendsCommandAndData (.setXCounter v) 0x4E [((v >>> 3) &&& 0xFF#16).setWidth 8] ∧
    SendsCommandAndData (.setYCounter v) 0x4F [(v &&& 0xFF#16).setWidth 8, ((v >>> 8) &&& 0xFF#16).setWidth 8]

/-- R112: WRITE_RAM sends its payload whole in one Data frame, for every non-empty payload. The second clause, that with an empty
payload it sends the Command frame alone, is no rule of the spec: R53 and R112 exclude an empty payload, and what WRITE_RAM
does with one is the model's own choice (log entry 17). -/
def Obligations.WriteRamSendsItsPayloadWhole : Prop :=
  (∀ payload : List Byte, payload ≠ [] → SendsCommandAndData (.writeRam payload) 0x24 payload) ∧
  SendsCommand (.writeRam []) 0x24

/-- The sub-steps of R113, R114 and R115: the refresh operations; two of them have no Data frame. -/
def Obligations.RefreshOperationsSendTheirFrames : Prop :=
  SendsCommandAndData .displayUpdateControl2 0x22 [0xC4] ∧ SendsCommand .masterActivation 0x20 ∧
  SendsCommand .terminateFrameRw 0xFF

/-- R73: a fault of the send aborts the operation with BUS, after any number of the frame's bytes, and nothing more is sent; a
fault of the select-line write aborts it with GPIO, and no byte is clocked. The frame is the one that is due; the class of the
response follows D18. -/
def Obligations.WireOperationAbortsOnAFault : Prop :=
  ∀ (i : Instr) (w : WireCode) (s : State) (ps ss : List Answer), encode i = .wire w →
    let f := frameDue Config.epd w s
    let l := selectLevel Config.epd f.mode
    (s.pinAnswers = .ok :: ps → s.sendAnswers = .fault :: ss → ∃ n d, n ≤ f.payload.length ∧ exec i s = .next
      { s with
        lineDc := l, lineCs := .inactive, running := false, result := ⟨true, abortClass s.op, .bus⟩
        pinAnswers := ps, sendAnswers := ss, draws := d
        trace := s.trace ++ [.pinWrite .dc l, .sendFault f.payload n, .response (abortClass s.op) .bus] }) ∧
    (s.pinAnswers = .fault :: ps → ∃ l' d, exec i s = .next
      { s with
        lineDc := l', running := false, result := ⟨true, abortClass s.op, .gpio⟩, pinAnswers := ps, draws := d
        trace := s.trace ++ [.pinWriteFault .dc l, .response (abortClass s.op) .gpio] })

/-- R100: the frame of the wire operations, whatever the environment answers. They write LINE.DC, LINE.CS and `PC`, and on an abort
RUNNING and RESULT; no other register. -/
def Obligations.WireOperationsLeaveTheRest : Prop :=
  ∀ (i : Instr) (w : WireCode) (s t : State), encode i = .wire w → exec i s = .next t →
    t.session = s.session ∧ t.op = s.op ∧ t.a = s.a ∧ t.waitCnt = s.waitCnt ∧ t.lineRst = s.lineRst ∧
    t.busyPin = s.busyPin ∧ t.reqs = s.reqs ∧ t.resetIn = s.resetIn ∧ t.busyLevels = s.busyLevels ∧
    (t.lineCs = s.lineCs ∨ t.lineCs = .inactive) ∧
    (t.pc = s.pc + 1 ∧ t.running = s.running ∧ t.result = s.result ∨
      t.pc = s.pc ∧ t.running = false ∧
        (t.result = ⟨true, abortClass s.op, .gpio⟩ ∨ t.result = ⟨true, abortClass s.op, .bus⟩))

/-! ### Host operations -/

/-- The frame of the host operations: taking a request changes no line, no session state and no input; a running one keeps its
latches and the port, and writes RESULT only when it ends. -/
def Obligations.HostOperationsLeaveTheRest : Prop :=
  ∀ (i : Instr) (req : Req) (s t : State), encode i = .request req → exec i s = .next t →
    t.reqs = s.reqs ∧ t.resetIn = s.resetIn ∧ t.busyPin = s.busyPin ∧
    (s.running = false → t.session = s.session ∧ t.lineRst = s.lineRst ∧ t.lineDc = s.lineDc ∧ t.lineCs = s.lineCs ∧
      t.pinAnswers = s.pinAnswers ∧ t.sendAnswers = s.sendAnswers ∧ t.busyLevels = s.busyLevels ∧ t.draws = s.draws ∧
      (t.running = true ∧ t.result = s.result ∧ t.trace = s.trace ∨
        t.running = false ∧ t.op = s.op ∧ t.a = s.a ∧ t.pc = s.pc ∧ t.waitCnt = s.waitCnt)) ∧
    (s.running = true → t.op = s.op ∧ t.a = s.a ∧ (t.running = true → t.result = s.result))

/-- R133: INIT, accepted in any session state, with the environment answering `ok`, runs through its 23 sub-steps and completes: the
reset pulse, the "reset" event, the seven configuration operations in their order, Idle, the "ready" event (D5, D23). -/
def Obligations.InitRunsToIdle : Prop :=
  ∀ (a : Operands) (s : State) (ps ss : List Answer), s.running = false →
    s.pinAnswers = List.replicate 16 .ok ++ ps → s.sendAnswers = List.replicate 14 .ok ++ ss →
    exec (.init a) s = .next (accepted 0x00 a s) ∧
    execTimes (.init a) 25 s = .next
      { s with
        session := .idle, running := false, op := 0x00, a := a, pc := 23, waitCnt := 0, result := ⟨true, .ok, .ok⟩
        lineRst := .high, lineDc := Config.epd.dcCmdLevel.other, lineCs := .inactive
        pinAnswers := ps, sendAnswers := ss
        trace := s.trace ++
          [.pinWrite .rst .low, .delay 200, .pinWrite .rst .high, .delay 200, .event .reset] ++
          cFrame Config.epd 0x01 ++ dFrame Config.epd [0xF9, 0x00, Config.epd.params.scanFlags] ++
          cFrame Config.epd 0x0C ++ dFrame Config.epd
            [Config.epd.params.booster[0], Config.epd.params.booster[1], Config.epd.params.booster[2]] ++
          cFrame Config.epd 0x2C ++ dFrame Config.epd [Config.epd.params.vcom] ++
          cFrame Config.epd 0x3A ++ dFrame Config.epd [Config.epd.params.dummyLine] ++
          cFrame Config.epd 0x3B ++ dFrame Config.epd [Config.epd.params.gateTime] ++
          cFrame Config.epd 0x11 ++ dFrame Config.epd [Config.epd.params.entryMode] ++
          cFrame Config.epd 0x32 ++ dFrame Config.epd Config.epd.lut.toList ++
          [.event .ready, .response .ok .ok] }

/-- R134: CLEAR, accepted in Idle, with the environment answering `ok` and idle, sets the whole display as the window and writes
each of the 250 rows: its own pointer, a wait, 16 fill bytes; and completes in Idle (D5, D8; geometry as log entry 1). -/
def Obligations.ClearWritesEveryRow : Prop :=
  ∀ (a : Operands) (s : State) (ps ss : List Answer) (bs : List Level), s.running = false → s.session = .idle →
    s.pinAnswers = List.replicate 1504 .ok ++ ps → s.sendAnswers = List.replicate 1504 .ok ++ ss →
    s.busyLevels = List.replicate 250 .low ++ bs →
    exec (.clear a) s = .next (accepted 0x01 a s) ∧
    execTimes (.clear a) 1758 s = .next
      { s with
        running := false, op := 0x01, a := a, pc := 1756, waitCnt := 0, result := ⟨true, .ok, .ok⟩
        lineDc := Config.epd.dcCmdLevel.other, lineCs := .inactive
        pinAnswers := ps, sendAnswers := ss, busyLevels := bs
        trace := s.trace ++
          cFrame Config.epd 0x44 ++ dFrame Config.epd [0x00, 0x0F] ++
          cFrame Config.epd 0x45 ++ dFrame Config.epd [0x00, 0x00, 0xF9, 0x00] ++
          ((List.range 250).flatMap fun row =>
            cFrame Config.epd 0x4E ++ dFrame Config.epd [0x00] ++
            cFrame Config.epd 0x4F ++ dFrame Config.epd [BitVec.ofNat 8 row, 0x00] ++
            [.busyRead .low] ++
            cFrame Config.epd 0x24 ++ dFrame Config.epd (List.replicate 16 (a.a0.extractLsb' 0 8))) ++
          [.response .ok .ok] }

/-- R135: DISPLAY, accepted in Idle, with the environment answering `ok` and busy `k` times within the bound (R93: at most 100 times
for the default of 5000 ms, log entry 3), sends its four frames, waits for idle, and completes in Idle. -/
def Obligations.DisplayRefreshesAndWaits : Prop :=
  ∀ (a : Operands) (s : State) (ps ss : List Answer) (k : Nat) (bs : List Level), s.running = false → s.session = .idle →
    s.pinAnswers = List.replicate 4 .ok ++ ps → s.sendAnswers = List.replicate 4 .ok ++ ss →
    s.busyLevels = List.replicate k .high ++ .low :: bs → k ≤ 100 →
    exec (.display a) s = .next (accepted 0x02 a s) ∧
    execTimes (.display a) (k + 9) s = .next
      { s with
        running := false, op := 0x02, a := a, pc := 7, waitCnt := 0, result := ⟨true, .ok, .ok⟩
        lineDc := Config.epd.dcCmdLevel, lineCs := .inactive
        pinAnswers := ps, sendAnswers := ss, busyLevels := bs
        trace := s.trace ++
          cFrame Config.epd 0x22 ++ dFrame Config.epd [0xC4] ++ cFrame Config.epd 0x20 ++ cFrame Config.epd 0xFF ++
          waitEvents k ++ [.response .ok .ok] }

/-- R136: SETAREA, accepted in Idle on a window of the display, with the environment answering `ok`, sends the window, waits for
nothing, and completes in Idle. -/
def Obligations.SetAreaSendsTheWindow : Prop :=
  ∀ (x0 y0 x1 y1 : U16) (s : State) (ps ss : List Answer), s.running = false → s.session = .idle →
    x0.toNat ≤ x1.toNat → x1.toNat ≤ 127 → y0.toNat ≤ y1.toNat → y1.toNat ≤ 249 →
    s.pinAnswers = List.replicate 4 .ok ++ ps → s.sendAnswers = List.replicate 4 .ok ++ ss →
    exec (.setarea ⟨x0, y0, x1, y1⟩) s = .next (accepted 0x03 ⟨x0, y0, x1, y1⟩ s) ∧
    execTimes (.setarea ⟨x0, y0, x1, y1⟩) 8 s = .next
      { s with
        running := false, op := 0x03, a := ⟨x0, y0, x1, y1⟩, pc := 6, waitCnt := 0, result := ⟨true, .ok, .ok⟩
        lineDc := Config.epd.dcCmdLevel.other, lineCs := .inactive, pinAnswers := ps, sendAnswers := ss
        trace := s.trace ++
          cFrame Config.epd 0x44 ++
          dFrame Config.epd [((x0 >>> 3) &&& 0xFF#16).setWidth 8, ((x1 >>> 3) &&& 0xFF#16).setWidth 8] ++
          cFrame Config.epd 0x45 ++
          dFrame Config.epd [(y0 &&& 0xFF#16).setWidth 8, ((y0 >>> 8) &&& 0xFF#16).setWidth 8,
            (y1 &&& 0xFF#16).setWidth 8, ((y1 >>> 8) &&& 0xFF#16).setWidth 8] ++
          [.response .ok .ok] }

/-- R137: SETPTR, accepted in Idle on a pixel of the display, with the environment answering `ok` and busy `k` times within the
bound (at most 100 times, as for DISPLAY), sends the pointer, waits for idle, and completes in Idle; the unused fields are
latched and have no effect. -/
def Obligations.SetPtrSendsThePointerAndWaits : Prop :=
  ∀ (x y u v : U16) (s : State) (ps ss : List Answer) (k : Nat) (bs : List Level), s.running = false → s.session = .idle →
    x.toNat ≤ 127 → y.toNat ≤ 249 →
    s.pinAnswers = List.replicate 4 .ok ++ ps → s.sendAnswers = List.replicate 4 .ok ++ ss →
    s.busyLevels = List.replicate k .high ++ .low :: bs → k ≤ 100 →
    exec (.setptr ⟨x, y, u, v⟩) s = .next (accepted 0x04 ⟨x, y, u, v⟩ s) ∧
    execTimes (.setptr ⟨x, y, u, v⟩) (k + 9) s = .next
      { s with
        running := false, op := 0x04, a := ⟨x, y, u, v⟩, pc := 7, waitCnt := 0, result := ⟨true, .ok, .ok⟩
        lineDc := Config.epd.dcCmdLevel.other, lineCs := .inactive
        pinAnswers := ps, sendAnswers := ss, busyLevels := bs
        trace := s.trace ++
          cFrame Config.epd 0x4E ++ dFrame Config.epd [((x >>> 3) &&& 0xFF#16).setWidth 8] ++
          cFrame Config.epd 0x4F ++
          dFrame Config.epd [(y &&& 0xFF#16).setWidth 8, ((y >>> 8) &&& 0xFF#16).setWidth 8] ++
          waitEvents k ++ [.response .ok .ok] }

/-! ### Reset line -/

/-- R80, R83: a step at `RST(l)` drives the reset line to `l`; a fault of the pin write aborts with GPIO, is not repeated and leaves the
level of the line alone open. The class of the response follows D18. -/
def Obligations.ResetLineIsDrivenOrAborts : Prop :=
  ∀ (s : State) (l : Level) (ps : List Answer), NoReset s → s.running = true →
    currentSubStep Config.epd s = some (.rst l) →
    (s.pinAnswers = .ok :: ps → step s = .next
      { afterResetInput s with
        lineRst := l, pc := s.pc + 1, pinAnswers := ps, trace := s.trace ++ [.pinWrite .rst l] }) ∧
    (s.pinAnswers = .fault :: ps → ∃ l' d, step s = .next
      { afterResetInput s with
        lineRst := l', running := false, result := ⟨true, abortClass s.op, .gpio⟩, pinAnswers := ps, draws := d
        trace := s.trace ++ [.pinWriteFault .rst l, .response (abortClass s.op) .gpio] })

/-! ### Busy wait -/

/-- R91: a wait whose first read is idle is over with exactly one busy read, no delay, and `PC` advanced. -/
def Obligations.WaitReturnsAtOnceWhenIdle : Prop :=
  ∀ (s : State) (bs : List Level), NoReset s → s.running = true → currentSubStep Config.epd s = some .wait →
    s.busyLevels = .low :: bs →
    step s = .next
      { afterResetInput s with
        waitCnt := 0, pc := s.pc + 1, busyLevels := bs, trace := s.trace ++ [.busyRead .low] }

/-- R90 (its bound test is the spec's own, D15): a wait that reads busy aborts with TIMEOUT when the accounted time has reached the
bound, if there is one, and otherwise delays and counts: a step of the instance with its bound of 5000 ms and its delay of
50 ms (log entries 1 and 3), and the wait of every configuration with the configuration's own. -/
def Obligations.BusyWaitBacksOffOrTimesOut : Prop :=
  (∀ (s : State) (bs : List Level), NoReset s → s.running = true → currentSubStep Config.epd s = some .wait →
    s.busyLevels = .high :: bs →
    step s = .next (
      if 5000 ≤ s.waitCnt * 50 then
        { afterResetInput s with
          running := false, result := ⟨true, abortClass s.op, .timeout⟩, busyLevels := bs
          trace := s.trace ++ [.busyRead .high, .response (abortClass s.op) .timeout] }
      else
        { afterResetInput s with
          waitCnt := s.waitCnt + 1, busyLevels := bs, trace := s.trace ++ [.busyRead .high, .delay 50] })) ∧
  ∀ (c : Config) (s : State) (bs : List Level), s.busyLevels = .high :: bs →
    waitStep c s =
      if ∃ t, c.busyTimeoutMs = some t ∧ t ≤ s.waitCnt * c.backoffMs then
        { s with
          running := false, result := ⟨true, abortClass s.op, .timeout⟩, busyLevels := bs
          trace := s.trace ++ [.busyRead .high, .response (abortClass s.op) .timeout] }
      else
        { s with
          waitCnt := s.waitCnt + 1, busyLevels := bs, trace := s.trace ++ [.busyRead .high, .delay c.backoffMs] }

/-- R93 (derived in the spec from R90), for every configuration with a bound `T`: with `N = ceil(T / BACKOFF_MS)`, a wait that never
reads idle makes `N + 1` reads and `N` delays and times out; one whose read `j + 1`, `j <= N`, is the first idle one succeeds. -/
def Obligations.BoundedWaitTimesOutAfterItsReads : Prop :=
  ∀ (c : Config) (timeout n : Nat) (s : State) (bs : List Level), c.busyTimeoutMs = some timeout → 0 < c.backoffMs →
    n = (timeout + c.backoffMs - 1) / c.backoffMs → s.waitCnt = 0 →
    (∀ j ≤ n, s.busyLevels = List.replicate j .high ++ .low :: bs →
      (waitStep c)^[j + 1] s =
        { s with
          pc := s.pc + 1, busyLevels := bs
          trace := s.trace ++ (List.replicate j [Event.busyRead .high, .delay c.backoffMs]).flatten ++ [.busyRead .low] }) ∧
    (s.busyLevels = List.replicate (n + 1) .high ++ bs →
      (waitStep c)^[n + 1] s =
        { s with
          waitCnt := n, running := false, result := ⟨true, abortClass s.op, .timeout⟩, busyLevels := bs
          trace := s.trace ++ (List.replicate n [Event.busyRead .high, .delay c.backoffMs]).flatten ++
            [.busyRead .high, .response (abortClass s.op) .timeout] })

/-- R94: without a bound, a wait that keeps reading busy goes on after any number of reads: RUNNING stays as it is, `PC` stays, and no
response is produced. -/
def Obligations.UnboundedWaitGoesOn : Prop :=
  ∀ (c : Config) (k : Nat) (s : State) (bs : List Level), c.busyTimeoutMs = none →
    s.busyLevels = List.replicate k .high ++ bs →
    (waitStep c)^[k] s =
      { s with
        waitCnt := s.waitCnt + k, busyLevels := bs
        trace := s.trace ++ (List.replicate k [Event.busyRead .high, .delay c.backoffMs]).flatten }

/-! ### Aborts -/

/-- R164: an abort clears RUNNING and writes RESULT and the response, and changes neither SESSION_STATE, `PC`, the latches nor WAITCNT;
it drives no line but the one being written, sends nothing after the fault and emits no event. R161 (D18): the class is InitError
for INIT and IoError for every other operation. -/
def Obligations.AbortChangesOnlyRunningAndResult : Prop :=
  ∀ (s t : State) (sub : SubStep), NoReset s → s.running = true → currentSubStep Config.epd s = some sub →
    step s = .next t → t.running = false →
    t.session = s.session ∧ t.pc = s.pc ∧ t.op = s.op ∧ t.a = s.a ∧ t.waitCnt = s.waitCnt ∧
    (t.lineCs = s.lineCs ∨ t.lineCs = .inactive) ∧
    (t.lineRst = s.lineRst ∨ ∃ l, sub = .rst l) ∧ (t.lineDc = s.lineDc ∨ sub.isFrame = true) ∧
    t.result.valid = true ∧ t.result.cls = (if s.op = 0x00 then .initError else .ioError) ∧
    ∃ es, t.trace = s.trace ++ es ++ [.response t.result.cls t.result.code] ∧
      ∀ ev ∈ es, (∀ e, ev ≠ .event e) ∧ (∀ bytes, ev ≠ .send bytes)

/-- R162 (derived in the spec): which sub-step raises which cause, in which operations; whatever the cause, the class is
InitError in INIT and IoError in the others (R161, D18). -/
def Obligations.EachCauseHasItsSubStep : Prop :=
  ∀ (s t : State) (sub : SubStep), NoReset s → s.running = true → currentSubStep Config.epd s = some sub →
    step s = .next t → t.running = false →
    t.result.cls = (if s.op = 0x00 then .initError else .ioError) ∧
    (t.result.code = .bus ∧ sub.isFrame = true ∨
      t.result.code = .gpio ∧ (sub.isFrame = true ∨ s.op = 0x00 ∧ ∃ l, sub = .rst l) ∨
      t.result.code = .timeout ∧ sub = .wait ∧ (s.op = 0x01 ∨ s.op = 0x02 ∨ s.op = 0x04))

/-- R165 (derived in the spec): an aborted operation leaves the last session state it entered, which is never Idle. -/
def Obligations.AbortedOperationLeavesItsBusyState : Prop :=
  ∀ s t : State, s.Inv → NoReset s → s.running = true → step s = .next t → t.running = false → t.result.cls ≠ .ok →
    s.op = 0x00 ∧ (t.session = .resetting ∨ t.session = .configuring) ∨
    s.op = 0x02 ∧ t.session = .refreshing ∨
    (s.op = 0x01 ∨ s.op = 0x03 ∨ s.op = 0x04) ∧ t.session = .writingFrame

/-- R75: a bus failure on the third frame of initialize aborts at once with the injected error, BUS; the frames after it are never
sent, however many steps follow without a request. The class InitError follows D18, the event D23. -/
def Obligations.BusFaultOnFrameThreeStopsInitialisation : Prop :=
  (∀ c : Config, frameNumber (initProgram c) 9 = 3 ∧ (initProgram c)[9]? = some (.cmd .boosterSoftStart 0x0C)) ∧
  ∀ (s : State) (req : Req) (ps ss : List Answer), s.running = false → s.resetIn = [] → s.reqs = [some req] →
    req.extractLsb' 64 8 = (0x00 : Byte) → s.pinAnswers = List.replicate 5 .ok ++ ps →
    s.sendAnswers = .ok :: .ok :: .fault :: ss →
    ∃ t n, run 11 s = .next t ∧ t.running = false ∧ t.pc = 9 ∧ t.session = .configuring ∧
      t.result = ⟨true, .initError, .bus⟩ ∧
      t.trace = s.trace ++
        [.pinWrite .rst .low, .delay 200, .pinWrite .rst .high, .delay 200, .event .reset] ++
        cFrame Config.epd 0x01 ++ dFrame Config.epd [0xF9, 0x00, Config.epd.params.scanFlags] ++
        [.pinWrite .dc Config.epd.dcCmdLevel, .sendFault [0x0C] n, .response .initError .bus] ∧
      ∀ k, run k t = .next t

/-- R166, with the state check of R130 (D7): after an abort every request but INIT is refused with STATE, and INIT is accepted. -/
def Obligations.AfterAnAbortOnlyInitIsAccepted : Prop :=
  ∀ (s : State) (req : Req) (rest : List (Option Req)), s.Inv → NoReset s → s.running = false →
    s.result.cls = .initError ∨ s.result.cls = .ioError → s.reqs = some req :: rest →
    (req.extractLsb' 64 8 = (0x00 : Byte) → ∃ a, step s = .next (accepted 0x00 a { afterResetInput s with reqs := rest })) ∧
    (0 < (req.extractLsb' 64 8).toNat → (req.extractLsb' 64 8).toNat ≤ 4 →
      step s = .next (refused .state { afterResetInput s with reqs := rest }))

/-! ### Micro-programs -/

/-- R118: the compounds are X before Y, four sub-steps, and contain no WAIT. -/
def Obligations.CompoundsAreXBeforeY : Prop :=
  ∀ x0 y0 x1 y1 : U16,
    setWindow x0 y0 x1 y1 =
      [.cmd (.setXWindow x0 x1) 0x44, .data (.setXWindow x0 x1) [byteColumn x0, byteColumn x1],
        .cmd (.setYWindow y0 y1) 0x45, .data (.setYWindow y0 y1) [lo y0, hi y0, lo y1, hi y1]] ∧
    setPointer x0 y0 =
      [.cmd (.setXCounter x0) 0x4E, .data (.setXCounter x0) [byteColumn x0],
        .cmd (.setYCounter y0) 0x4F, .data (.setYCounter y0) [lo y0, hi y0]]

/-- The counts of R134 on every valid geometry, and the seven sub-steps of each row. -/
def Obligations.ClearProgramWritesRowByRow : Prop :=
  ∀ (c : Config) (a : Operands), c.Valid →
    (clearProgram c a).length = 7 * c.height.toNat + 6 ∧
    (clearProgram c a).countP SubStep.isFrame = 6 * c.height.toNat + 4 ∧
    (clearProgram c a).count .wait = c.height.toNat ∧
    ∀ row < c.height.toNat, ((clearProgram c a).drop (5 + 7 * row)).take 7 =
      memWrite 0 (BitVec.ofNat 16 row) (List.replicate (c.width.toNat / 8) (a.a0.extractLsb' 0 8))

/-- R59 (derived in the spec): every Command frame of every micro-program carries one of the fifteen command bytes. -/
def Obligations.OnlyTheFifteenCommandsAreSent : Prop :=
  ∀ (c : Config) (op : Byte) (a : Operands) (i : Instr) (b : Byte), .cmd i b ∈ microProgram c op a →
    b ∈ ([0x01, 0x0C, 0x2C, 0x3A, 0x3B, 0x11, 0x32, 0x44, 0x45, 0x4E, 0x4F, 0x24, 0x22, 0x20, 0xFF] : List Byte)

/-- R201: in every micro-program a Command frame is immediately followed by its own Data frame, when its operation has data bytes, and
every Data frame follows the Command frame of its operation at once. -/
def Obligations.CommandIsFollowedByItsData : Prop :=
  ∀ (c : Config) (op : Byte) (a : Operands) (k : Nat),
    (∀ i b, (microProgram c op a)[k]? = some (.cmd i b) → ∃ w, encodeWith c i = .wire w ∧ w.cmd = b ∧
      (w.data ≠ [] → (microProgram c op a)[k + 1]? = some (.data i w.data))) ∧
    (∀ i bytes, (microProgram c op a)[k]? = some (.data i bytes) →
      ∃ j b w, k = j + 1 ∧ (microProgram c op a)[j]? = some (.cmd i b) ∧ encodeWith c i = .wire w ∧ w.cmd = b ∧
        w.data = bytes)

/-- R95, R202, R203: in every micro-program a WAIT stands after each pointer set and after each refresh trigger, and nowhere else; INIT
and SETAREA have none. -/
def Obligations.WaitFollowsPointerAndRefreshOnly : Prop :=
  ∀ (c : Config) (op : Byte) (a : Operands),
    (∀ k y bytes, (microProgram c op a)[k]? = some (.data (.setYCounter y) bytes) →
      (microProgram c op a)[k + 1]? = some .wait) ∧
    (∀ k b, (microProgram c op a)[k]? = some (.cmd .terminateFrameRw b) → (microProgram c op a)[k + 1]? = some .wait) ∧
    (∀ k, (microProgram c op a)[k]? = some .wait → ∃ j, k = j + 1 ∧
      ((∃ y bytes, (microProgram c op a)[j]? = some (.data (.setYCounter y) bytes)) ∨
        ∃ b, (microProgram c op a)[j]? = some (.cmd .terminateFrameRw b))) ∧
    (op = 0x00 ∨ op = 0x03 → .wait ∉ microProgram c op a)

/-! ### The whole machine -/

/-- The values R190 gives after block reset (D20): no operation, nothing in the trace, the lines inactive. -/
def Obligations.ResetLeavesAnIdlePort : Prop :=
  State.reset.session = .uninitialized ∧ State.reset.running = false ∧ State.reset.pc = 0 ∧ State.reset.waitCnt = 0 ∧
  State.reset.result.valid = false ∧ State.reset.lineRst = .high ∧
  State.reset.lineDc = Config.epd.dcCmdLevel ∧ State.reset.lineCs = .inactive ∧ State.reset.busyPin = .input ∧ State.reset.trace = []

/-- R192 (D21): block reset, whatever is in progress, gives the state after reset, with no response and no event; a frame in transmission
is cut after at most its bytes. -/
def Obligations.BlockResetStopsEverything : Prop :=
  ∀ (s : State) (r : ResetIn) (rest : List ResetIn), s.resetIn = r :: rest → r ≠ .released →
    ∃ t es, step s = .next t ∧ t.trace = s.trace ++ es ∧
      t.session = .uninitialized ∧ t.running = false ∧ t.pc = 0 ∧ t.waitCnt = 0 ∧ t.result.valid = false ∧
      t.lineRst = .high ∧ t.lineDc = Config.epd.dcCmdLevel ∧ t.lineCs = .inactive ∧ t.busyPin = .input ∧
      t.reqs = s.reqs ∧ t.resetIn = rest ∧
      (∀ ev ∈ es, (∀ cls code, ev ≠ .response cls code) ∧ (∀ e, ev ≠ .event e) ∧ (∀ bytes, ev ≠ .send bytes) ∧
        ∀ bytes n, ev = .sendCut bytes n → n ≤ bytes.length) ∧
      (r = .asserted → es = [])

/-- The state after reset meets the invariant of the runs. -/
def Obligations.ResetMeetsTheInvariant : Prop := State.reset.Inv

/-- Every step keeps the invariant, block reset included. -/
def Obligations.StepKeepsTheInvariant : Prop :=
  ∀ s t : State, s.Inv → step s = .next t → t.Inv

/-- A state that meets the invariant always has a next state: no run from reset stops. -/
def Obligations.InvariantStatesNeverStop : Prop :=
  ∀ s : State, s.Inv → ∃ t, step s = .next t

/-- R11 (D8): SESSION_STATE moves only along the edges the spec lists, and to Uninitialized on block reset. -/
def Obligations.SessionStateMovesAlongItsEdges : Prop :=
  ∀ s t : State, s.Inv → step s = .next t →
    (NoReset s → t.session = s.session ∨ sessionEdge s.session t.session = true) ∧
    (¬ NoReset s → t.session = .uninitialized)

/-- R52 (D5, D18): every response has one of the nine words that can occur; InitError with TIMEOUT cannot. -/
def Obligations.ResponsesAreLegalWords : Prop :=
  ∀ (s t : State) (es : List Event) (cls : RespClass) (code : RespCode), step s = .next t →
    t.trace = s.trace ++ es → .response cls code ∈ es →
    rsp cls code ∈ ([0x00, 0x11, 0x12, 0x21, 0x22, 0x23, 0x34, 0x35, 0x36] : List Byte) ∧ t.result = ⟨true, cls, code⟩ ∧
      t.running = false

/-- R170 (D23): an event comes only from a running INIT, "reset" after the pulse and "ready" at its end. -/
def Obligations.EventsComeOnlyFromInit : Prop :=
  ∀ (s t : State) (es : List Event) (e : Notice), step s = .next t → t.trace = s.trace ++ es → .event e ∈ es →
    s.running = true ∧ s.op = 0x00 ∧ (e = .reset ∧ s.pc = 5 ∨ e = .ready ∧ s.pc = 22)

/-- R9, R40: what has happened stays in the trace, in order. -/
def Obligations.TraceOnlyGrows : Prop :=
  ∀ s t : State, step s = .next t → ∃ es, t.trace = s.trace ++ es

/-- R55, R71, R200: bytes are sent only in a frame's step, right after the select line has been set to the level of the frame's
mode, and at the end of the step the line still has that level; and without block reset no step but a frame's changes the line. -/
def Obligations.SelectLineIsSetBeforeTheBytes : Prop :=
  ∀ (s t : State) (es : List Event), NoReset s → step s = .next t → t.trace = s.trace ++ es →
    (∀ bytes, .send bytes ∈ es → es = [.pinWrite .dc t.lineDc, .send bytes] ∧
      ((∃ op b, currentSubStep Config.epd s = some (.cmd op b) ∧ bytes = [b] ∧
          t.lineDc = Config.epd.dcCmdLevel) ∨
        ∃ op, currentSubStep Config.epd s = some (.data op bytes) ∧ t.lineDc = Config.epd.dcCmdLevel.other)) ∧
    (t.lineDc ≠ s.lineDc → s.running = true ∧ ∃ sub, currentSubStep Config.epd s = some sub ∧ sub.isFrame = true)

/-! ### Status, and the parameters of R7 -/

/-- R22 (D2, D5, D6; codes of R10 and R17): the status the host reads: the 3-bit code of SESSION_STATE, RESULT's valid bit with its
2-bit class and its 4-bit code, and `req_ready = not RUNNING`. R20 (derived in the spec): NeedsInit holds exactly while
nothing runs and the session is not Idle. -/
def Obligations.HostReadsTheStatus : Prop :=
  ∀ s : State,
    s.status =
      { session := match s.session with
          | .uninitialized => 0
          | .resetting => 1
          | .configuring => 2
          | .idle => 3
          | .writingFrame => 4
          | .refreshing => 5
        valid := s.result.valid
        cls := match s.result.cls with
          | .ok => 0
          | .initError => 1
          | .ioError => 2
          | .refused => 3
        code := match s.result.code with
          | .ok => 0
          | .bus => 1
          | .gpio => 2
          | .timeout => 3
          | .state => 4
          | .param => 5
          | .op => 6
        reqReady := !s.running } ∧
    (s.reqReady = true ↔ s.running = false) ∧
    (s.needsInit = true ↔ s.running = false ∧ s.session ≠ .idle)

/-- R55, R70 with `DC_CMD_LEVEL` of R7 (D11), for every configuration: with the environment answering `ok` a frame sets the select
line to `DC_CMD_LEVEL` for a Command and to the other level for Data, and then sends its bytes; on the instance a Command
is low (the default, log entry 3). -/
def Obligations.FrameIsSentAtItsConfiguredLevel : Prop :=
  Config.epd.dcCmdLevel = .low ∧
  ∀ (c : Config) (f : Frame) (s : State) (ps ss : List Answer), s.pinAnswers = .ok :: ps → s.sendAnswers = .ok :: ss →
    let l : Level := if f.mode = .command then c.dcCmdLevel else if c.dcCmdLevel = .low then .high else .low
    sendFrame c f s =
      { s with
        lineDc := l, lineCs := .inactive, pc := s.pc + 1, pinAnswers := ps, sendAnswers := ss
        trace := s.trace ++ [.pinWrite .dc l, .send f.payload] }

/-! ### Every configuration -/

/-- R19 with R130 and R131: a block of any configuration takes a request and runs an operation by the meanings and the sub-steps of
its own configuration, and `exec` and `step` are those of the instance (log entries 1 and 3). -/
def Obligations.BlockOfAnyConfigurationRunsItsOperations : Prop :=
  (∀ (i : Instr) (s : State), execOf Config.epd i s = exec i s ∧ stepOf Config.epd s = step s) ∧
  ∀ (c : Config) (s : State), NoReset s →
    (∀ i, s.running = true → decodeHost s.op s.a = .ok i → stepOf c s = execOf c i (afterResetInput s)) ∧
    (∀ sub, s.running = true → currentSubStep c s = some sub →
      stepOf c s = .next (runSubStep c sub (afterResetInput s))) ∧
    (∀ req rest i, s.running = false → s.reqs = some req :: rest → decodeRequest req = .ok i →
      stepOf c s = execOf c i { afterResetInput s with reqs := rest })

/-- R94: with `BUSY_TIMEOUT_MS = none`, under every such configuration, a wait during which busy never reads 0 is an infinite execution
of the sequencer: for every number `k` of busy levels that are all 1, `k` steps of the block are `k` reads and `k` delays, RUNNING and
`PC` as before and the request port untouched; and whatever the environment answers, after `k` steps in which no read gave 0 the block is still
RUNNING at the same wait, has produced no response and has taken no request. Block reset is not asserted. -/
def Obligations.UnboundedWaitIsAHang : Prop :=
  ∀ (c : Config) (k : Nat) (s : State), c.busyTimeoutMs = none → (∀ r ∈ s.resetIn, r = .released) → s.running = true →
    currentSubStep c s = some .wait →
    (∀ bs, s.busyLevels = List.replicate k .high ++ bs →
      runOf c k s = .next
        { s with
          resetIn := s.resetIn.drop k, waitCnt := s.waitCnt + k, busyLevels := bs
          trace := s.trace ++ (List.replicate k [Event.busyRead .high, .delay c.backoffMs]).flatten }) ∧
    (∀ t es, runOf c k s = .next t → t.trace = s.trace ++ es → .busyRead .low ∉ es →
      t.running = true ∧ t.pc = s.pc ∧ t.op = s.op ∧ t.a = s.a ∧ t.session = s.session ∧ t.result = s.result ∧
      t.reqs = s.reqs ∧ t.waitCnt = s.waitCnt + k ∧
      es = (List.replicate k [Event.busyRead .high, .delay c.backoffMs]).flatten)

/-- Under every configuration with a back-off above zero (R7 fixes 50 ms) the state after reset meets the invariant of the runs,
and a state that meets it has a next state, which meets it too: chip-select, opcode, operands, `PC`, SESSION_STATE and WAITCNT
are what R11, R14, R15, R18, R93, R130 and R132 make them of that configuration. -/
def Obligations.EveryConfigurationKeepsItsInvariant : Prop :=
  ∀ c : Config, 0 < c.backoffMs →
    (State.resetOf c).InvOf c ∧ ∀ s : State, s.InvOf c → ∃ t, stepOf c s = .next t ∧ t.InvOf c
end

