-- ==== Sys2Proof/Laws/MicroProgram.lean ====
section
/-! SUPPORT. The micro-programs: which sub-steps they hold, and that every frame carries the operation whose encoding it is. -/

namespace Sys2Proof.Machine

/-- A frame sub-step carries the bytes of the operation it belongs to. -/
def TagOk (c : Config) (sub : SubStep) : Prop :=
  match sub with
  | .cmd i b => ∃ w, encodeWith c i = .wire w ∧ w.cmd = b
  | .data i bytes => ∃ w, encodeWith c i = .wire w ∧ w.data = bytes ∧ bytes ≠ []
  | _ => True

theorem wireSubSteps_tagOk {c : Config} {i : Instr} {w : WireCode} (h : encodeWith c i = .wire w) :
    ∀ sub ∈ wireSubSteps i w, TagOk c sub := by
  intro sub hs
  unfold wireSubSteps at hs
  split at hs
  · simp only [List.mem_singleton] at hs
    subst hs
    exact ⟨w, h, rfl⟩
  · next b bs hd =>
    simp only [List.mem_cons, List.not_mem_nil, or_false] at hs
    rcases hs with rfl | rfl
    · exact ⟨w, h, rfl⟩
    · exact ⟨w, h, hd, by simp⟩

theorem setPointer_tagOk (c : Config) (x y : U16) : ∀ sub ∈ setPointer x y, TagOk c sub := by
  intro sub hs
  rcases List.mem_append.mp hs with h | h
  · exact wireSubSteps_tagOk (i := .setXCounter x) rfl sub h
  · exact wireSubSteps_tagOk (i := .setYCounter y) rfl sub h

theorem setWindow_tagOk (c : Config) (x0 y0 x1 y1 : U16) : ∀ sub ∈ setWindow x0 y0 x1 y1, TagOk c sub := by
  intro sub hs
  rcases List.mem_append.mp hs with h | h
  · exact wireSubSteps_tagOk (i := .setXWindow x0 x1) rfl sub h
  · exact wireSubSteps_tagOk (i := .setYWindow y0 y1) rfl sub h

theorem memWrite_tagOk (c : Config) (col : Byte) (row : U16) (bytes : List Byte) :
    ∀ sub ∈ memWrite col row bytes, TagOk c sub := by
  intro sub hs
  simp only [memWrite, List.append_assoc, List.mem_append, List.mem_singleton] at hs
  rcases hs with h | rfl | h
  · exact setPointer_tagOk c _ _ sub h
  · trivial
  · exact wireSubSteps_tagOk (i := .writeRam bytes) rfl sub h

theorem clearRows_tagOk (c : Config) (v : Byte) (row n : Nat) : ∀ sub ∈ clearRows c v row n, TagOk c sub := by
  induction n generalizing row with
  | zero => simp [clearRows]
  | succ n ih =>
    intro sub hs
    rcases List.mem_append.mp hs with h | h
    · exact memWrite_tagOk c _ _ _ sub h
    · exact ih (row + 1) sub h

theorem configSequence_tagOk (c : Config) : ∀ sub ∈ configSequence c, TagOk c sub := by
  intro sub hs
  simp only [configSequence, List.append_assoc, List.mem_append] at hs
  rcases hs with h | h | h | h | h | h | h
  · exact wireSubSteps_tagOk (i := .driverOutputControl) rfl sub h
  · exact wireSubSteps_tagOk (i := .boosterSoftStart) rfl sub h
  · exact wireSubSteps_tagOk (i := .writeVcom) rfl sub h
  · exact wireSubSteps_tagOk (i := .setDummyLine) rfl sub h
  · exact wireSubSteps_tagOk (i := .setGateTime) rfl sub h
  · exact wireSubSteps_tagOk (i := .dataEntryMode) rfl sub h
  · exact wireSubSteps_tagOk (i := .writeLut) rfl sub h

/-- Every frame of every micro-program carries the bytes of the operation it belongs to. -/
theorem microProgram_tagOk (c : Config) (op : Byte) (a : Operands) : ∀ sub ∈ microProgram c op a, TagOk c sub := by
  intro sub hs
  unfold microProgram at hs
  split at hs
  · simp only [initProgram, resetPulse, List.append_assoc, List.mem_append, List.mem_cons, List.not_mem_nil,
      or_false] at hs
    rcases hs with rfl | (rfl | rfl | rfl | rfl) | (rfl | rfl) | h | (rfl | rfl) <;> first | trivial | skip
    exact configSequence_tagOk c sub h
  split at hs
  · simp only [clearProgram, List.append_assoc, List.mem_append, List.mem_singleton] at hs
    rcases hs with rfl | h | h | rfl <;> first | trivial | skip
    · exact setWindow_tagOk c _ _ _ _ sub h
    · exact clearRows_tagOk c _ _ _ sub h
  split at hs
  · simp only [displayProgram, List.append_assoc, List.mem_append, List.mem_cons, List.not_mem_nil, or_false] at hs
    rcases hs with rfl | h | h | h | (rfl | rfl) <;> first | trivial | skip
    · exact wireSubSteps_tagOk (i := .displayUpdateControl2) rfl sub h
    · exact wireSubSteps_tagOk (i := .masterActivation) rfl sub h
    · exact wireSubSteps_tagOk (i := .terminateFrameRw) rfl sub h
  split at hs
  · simp only [setAreaProgram, List.append_assoc, List.mem_append, List.mem_singleton] at hs
    rcases hs with rfl | h | rfl <;> first | trivial | skip
    exact setWindow_tagOk c _ _ _ _ sub h
  split at hs
  · simp only [setPtrProgram, List.append_assoc, List.mem_append, List.mem_cons, List.not_mem_nil, or_false] at hs
    rcases hs with rfl | h | (rfl | rfl) <;> first | trivial | skip
    exact setPointer_tagOk c _ _ sub h
  · simp at hs

/-- The sub-step at `PC` carries the bytes of the operation it belongs to. -/
theorem currentSubStep_tagOk {c : Config} {s : State} {sub : SubStep} (h : currentSubStep c s = some sub) :
    TagOk c sub :=
  microProgram_tagOk c s.op s.a sub (List.mem_of_getElem? h)

/-- A reserved opcode has no micro-program: a sub-step that is due belongs to a host operation. -/
theorem decodeHost_of_currentSubStep {c : Config} {s : State} {sub : SubStep} (h : currentSubStep c s = some sub) :
    ∃ i, decodeHost s.op s.a = .ok i := by
  unfold currentSubStep microProgram at h
  unfold decodeHost
  split at h
  · exact ⟨_, if_pos ‹_›⟩
  split at h
  · exact ⟨_, by rw [if_neg ‹_›, if_pos ‹_›]⟩
  split at h
  · exact ⟨_, by rw [if_neg ‹_›, if_neg ‹_›, if_pos ‹_›]⟩
  split at h
  · exact ⟨_, by rw [if_neg ‹_›, if_neg ‹_›, if_neg ‹_›, if_pos ‹_›]⟩
  split at h
  · exact ⟨_, by rw [if_neg ‹_›, if_neg ‹_›, if_neg ‹_›, if_neg ‹_›, if_pos ‹_›]⟩
  · simp at h

/-- The five host opcodes: a decoded operation and its opcode. -/
theorem decodeHost_cases {op : Byte} {a : Operands} {i : Instr} (h : decodeHost op a = .ok i) :
    (op = opInit ∧ i = .init a) ∨ (op = opClear ∧ i = .clear a) ∨ (op = opDisplay ∧ i = .display a) ∨
      (op = opSetArea ∧ i = .setarea a) ∨ (op = opSetPtr ∧ i = .setptr a) := by
  unfold decodeHost at h
  split at h
  · cases h; exact .inl ⟨‹_›, rfl⟩
  split at h
  · cases h; exact .inr (.inl ⟨‹_›, rfl⟩)
  split at h
  · cases h; exact .inr (.inr (.inl ⟨‹_›, rfl⟩))
  split at h
  · cases h; exact .inr (.inr (.inr (.inl ⟨‹_›, rfl⟩)))
  split at h
  · cases h; exact .inr (.inr (.inr (.inr ⟨‹_›, rfl⟩)))
  · cases h

/-! ### Session states along a micro-program -/

theorem lastState_append (l m : List SubStep) : lastState (l ++ m) = (lastState m).or (lastState l) := by
  induction l with
  | nil =>
    rw [List.nil_append]
    cases lastState m <;> simp [lastState]
  | cons x xs ih =>
    simp only [List.cons_append, lastState, ih]
    cases lastState m <;> cases lastState xs <;> simp

/-! ### Lengths -/

theorem clearRows_length (c : Config) (v : Byte) (hw : 8 ≤ c.width.toNat) (row n : Nat) :
    (clearRows c v row n).length = 7 * n := by
  have hp : 0 < rowBytes c := by unfold rowBytes; omega
  obtain ⟨k, hk⟩ := Nat.exists_eq_succ_of_ne_zero (Nat.pos_iff_ne_zero.mp hp)
  induction n generalizing row with
  | zero => rfl
  | succ n ih =>
    simp only [clearRows, List.length_append, ih]
    simp [memWrite, setPointer, wireSubSteps, codeSetXCounter, codeSetYCounter, codeWriteRam, splitU16, fillRow, hk,
      List.replicate_succ]
    omega

end Sys2Proof.Machine
end

