-- ==== Sys2Proof/Laws/Operands.lean ====
section
/-! SUPPORT. The operand forms as integers (R33, R36, R116), and the two configuration records as lists. -/

namespace Sys2Proof.Machine

theorem low_byte_toNat (v : U16) : (v &&& 0xFF#16).toNat = v.toNat % 256 := by
  rw [BitVec.toNat_and]
  exact Nat.and_two_pow_sub_one_eq_mod v.toNat 8

theorem lo_toNat (v : U16) : (lo v).toNat = v.toNat % 256 := by
  rw [lo, BitVec.toNat_setWidth, low_byte_toNat, Nat.mod_mod]

theorem hi_toNat (v : U16) : (hi v).toNat = v.toNat / 256 % 256 := by
  rw [hi, BitVec.toNat_setWidth, low_byte_toNat, BitVec.toNat_ushiftRight, Nat.shiftRight_eq_div_pow, Nat.mod_mod]

theorem byteColumn_toNat (x : U16) : (byteColumn x).toNat = x.toNat / 8 % 256 := by
  rw [byteColumn, BitVec.toNat_setWidth, low_byte_toNat, BitVec.toNat_ushiftRight, Nat.shiftRight_eq_div_pow,
    Nat.mod_mod]

theorem columnPixel_toNat (b : Byte) : (columnPixel b).toNat = 8 * b.toNat := by
  have := b.isLt
  rw [columnPixel, BitVec.toNat_shiftLeft, BitVec.toNat_setWidth, Nat.shiftLeft_eq]
  omega

theorem joinU16_toNat (l h : Byte) : (joinU16 l h).toNat = 256 * h.toNat + l.toNat := by
  rw [joinU16, BitVec.toNat_append, ← Nat.shiftLeft_add_eq_or_of_lt l.isLt, Nat.shiftLeft_eq, Nat.mul_comm]

/-- The two bytes of a u16 give it back. -/
theorem joinU16_split (v : U16) : joinU16 (lo v) (hi v) = v := by
  apply BitVec.eq_of_toNat_eq
  rw [joinU16_toNat, lo_toNat, hi_toNat]
  omega

end Sys2Proof.Machine

namespace Sys2Proof

/-- The three booster bytes, in their order. -/
theorem codeBoosterSoftStart_data (c : Config) : (codeBoosterSoftStart c).data = c.params.booster.toList := by
  apply List.ext_getElem
  · simp [codeBoosterSoftStart]
  · intro k h1 h2
    have h3 : k < 3 := h1
    obtain rfl | rfl | rfl : k = 0 ∨ k = 1 ∨ k = 2 := by omega
    all_goals simp [codeBoosterSoftStart]

/-- The thirty bytes of the look-up table, in their order. -/
theorem codeWriteLut_data (c : Config) : (codeWriteLut c).data = c.lut.toList := by
  apply List.ext_getElem
  · rw [codeWriteLut, List.length_ofFn, Vector.length_toList]
  · intro k h1 h2
    simp only [codeWriteLut, List.getElem_ofFn, Vector.getElem_toList]
    rfl

end Sys2Proof
end

