-- ==== Sys2Proof/Laws/State.lean ====
section
/-! SUPPORT. One lemma per field of State per named update, each true by rfl: no later proof unfolds a record update. -/

namespace Sys2Proof.Machine

@[simp] theorem State.log_session (s : State) (es : List Event) : (s.log es).session = s.session := rfl
@[simp] theorem State.log_running (s : State) (es : List Event) : (s.log es).running = s.running := rfl
@[simp] theorem State.log_op (s : State) (es : List Event) : (s.log es).op = s.op := rfl
@[simp] theorem State.log_a (s : State) (es : List Event) : (s.log es).a = s.a := rfl
@[simp] theorem State.log_pc (s : State) (es : List Event) : (s.log es).pc = s.pc := rfl
@[simp] theorem State.log_waitCnt (s : State) (es : List Event) : (s.log es).waitCnt = s.waitCnt := rfl
@[simp] theorem State.log_result (s : State) (es : List Event) : (s.log es).result = s.result := rfl
@[simp] theorem State.log_lineRst (s : State) (es : List Event) : (s.log es).lineRst = s.lineRst := rfl
@[simp] theorem State.log_lineDc (s : State) (es : List Event) : (s.log es).lineDc = s.lineDc := rfl
@[simp] theorem State.log_lineCs (s : State) (es : List Event) : (s.log es).lineCs = s.lineCs := rfl
@[simp] theorem State.log_busyPin (s : State) (es : List Event) : (s.log es).busyPin = s.busyPin := rfl
@[simp] theorem State.log_reqs (s : State) (es : List Event) : (s.log es).reqs = s.reqs := rfl
@[simp] theorem State.log_resetIn (s : State) (es : List Event) : (s.log es).resetIn = s.resetIn := rfl
@[simp] theorem State.log_pinAnswers (s : State) (es : List Event) : (s.log es).pinAnswers = s.pinAnswers := rfl
@[simp] theorem State.log_sendAnswers (s : State) (es : List Event) : (s.log es).sendAnswers = s.sendAnswers := rfl
@[simp] theorem State.log_busyLevels (s : State) (es : List Event) : (s.log es).busyLevels = s.busyLevels := rfl
@[simp] theorem State.log_draws (s : State) (es : List Event) : (s.log es).draws = s.draws := rfl
@[simp] theorem State.log_trace (s : State) (es : List Event) : (s.log es).trace = s.trace ++ es := rfl

@[simp] theorem State.advance_session (s : State) : s.advance.session = s.session := rfl
@[simp] theorem State.advance_running (s : State) : s.advance.running = s.running := rfl
@[simp] theorem State.advance_op (s : State) : s.advance.op = s.op := rfl
@[simp] theorem State.advance_a (s : State) : s.advance.a = s.a := rfl
@[simp] theorem State.advance_pc (s : State) : s.advance.pc = s.pc + 1 := rfl
@[simp] theorem State.advance_waitCnt (s : State) : s.advance.waitCnt = s.waitCnt := rfl
@[simp] theorem State.advance_result (s : State) : s.advance.result = s.result := rfl
@[simp] theorem State.advance_lineRst (s : State) : s.advance.lineRst = s.lineRst := rfl
@[simp] theorem State.advance_lineDc (s : State) : s.advance.lineDc = s.lineDc := rfl
@[simp] theorem State.advance_lineCs (s : State) : s.advance.lineCs = s.lineCs := rfl
@[simp] theorem State.advance_busyPin (s : State) : s.advance.busyPin = s.busyPin := rfl
@[simp] theorem State.advance_reqs (s : State) : s.advance.reqs = s.reqs := rfl
@[simp] theorem State.advance_resetIn (s : State) : s.advance.resetIn = s.resetIn := rfl
@[simp] theorem State.advance_pinAnswers (s : State) : s.advance.pinAnswers = s.pinAnswers := rfl
@[simp] theorem State.advance_sendAnswers (s : State) : s.advance.sendAnswers = s.sendAnswers := rfl
@[simp] theorem State.advance_busyLevels (s : State) : s.advance.busyLevels = s.busyLevels := rfl
@[simp] theorem State.advance_draws (s : State) : s.advance.draws = s.draws := rfl
@[simp] theorem State.advance_trace (s : State) : s.advance.trace = s.trace := rfl

@[simp] theorem State.drawn_session (s : State) : s.drawn.session = s.session := rfl
@[simp] theorem State.drawn_running (s : State) : s.drawn.running = s.running := rfl
@[simp] theorem State.drawn_op (s : State) : s.drawn.op = s.op := rfl
@[simp] theorem State.drawn_a (s : State) : s.drawn.a = s.a := rfl
@[simp] theorem State.drawn_pc (s : State) : s.drawn.pc = s.pc := rfl
@[simp] theorem State.drawn_waitCnt (s : State) : s.drawn.waitCnt = s.waitCnt := rfl
@[simp] theorem State.drawn_result (s : State) : s.drawn.result = s.result := rfl
@[simp] theorem State.drawn_lineRst (s : State) : s.drawn.lineRst = s.lineRst := rfl
@[simp] theorem State.drawn_lineDc (s : State) : s.drawn.lineDc = s.lineDc := rfl
@[simp] theorem State.drawn_lineCs (s : State) : s.drawn.lineCs = s.lineCs := rfl
@[simp] theorem State.drawn_busyPin (s : State) : s.drawn.busyPin = s.busyPin := rfl
@[simp] theorem State.drawn_reqs (s : State) : s.drawn.reqs = s.reqs := rfl
@[simp] theorem State.drawn_resetIn (s : State) : s.drawn.resetIn = s.resetIn := rfl
@[simp] theorem State.drawn_pinAnswers (s : State) : s.drawn.pinAnswers = s.pinAnswers := rfl
@[simp] theorem State.drawn_sendAnswers (s : State) : s.drawn.sendAnswers = s.sendAnswers := rfl
@[simp] theorem State.drawn_busyLevels (s : State) : s.drawn.busyLevels = s.busyLevels := rfl
@[simp] theorem State.drawn_draws (s : State) : s.drawn.draws = s.draws + 1 := rfl
@[simp] theorem State.drawn_trace (s : State) : s.drawn.trace = s.trace := rfl

@[simp] theorem State.setRst_session (s : State) (l : Level) : (s.setLine .rst l).session = s.session := rfl
@[simp] theorem State.setRst_running (s : State) (l : Level) : (s.setLine .rst l).running = s.running := rfl
@[simp] theorem State.setRst_op (s : State) (l : Level) : (s.setLine .rst l).op = s.op := rfl
@[simp] theorem State.setRst_a (s : State) (l : Level) : (s.setLine .rst l).a = s.a := rfl
@[simp] theorem State.setRst_pc (s : State) (l : Level) : (s.setLine .rst l).pc = s.pc := rfl
@[simp] theorem State.setRst_waitCnt (s : State) (l : Level) : (s.setLine .rst l).waitCnt = s.waitCnt := rfl
@[simp] theorem State.setRst_result (s : State) (l : Level) : (s.setLine .rst l).result = s.result := rfl
@[simp] theorem State.setRst_lineRst (s : State) (l : Level) : (s.setLine .rst l).lineRst = l := rfl
@[simp] theorem State.setRst_lineDc (s : State) (l : Level) : (s.setLine .rst l).lineDc = s.lineDc := rfl
@[simp] theorem State.setRst_lineCs (s : State) (l : Level) : (s.setLine .rst l).lineCs = s.lineCs := rfl
@[simp] theorem State.setRst_busyPin (s : State) (l : Level) : (s.setLine .rst l).busyPin = s.busyPin := rfl
@[simp] theorem State.setRst_reqs (s : State) (l : Level) : (s.setLine .rst l).reqs = s.reqs := rfl
@[simp] theorem State.setRst_resetIn (s : State) (l : Level) : (s.setLine .rst l).resetIn = s.resetIn := rfl
@[simp] theorem State.setRst_pinAnswers (s : State) (l : Level) : (s.setLine .rst l).pinAnswers = s.pinAnswers := rfl
@[simp] theorem State.setRst_sendAnswers (s : State) (l : Level) : (s.setLine .rst l).sendAnswers = s.sendAnswers := rfl
@[simp] theorem State.setRst_busyLevels (s : State) (l : Level) : (s.setLine .rst l).busyLevels = s.busyLevels := rfl
@[simp] theorem State.setRst_draws (s : State) (l : Level) : (s.setLine .rst l).draws = s.draws := rfl
@[simp] theorem State.setRst_trace (s : State) (l : Level) : (s.setLine .rst l).trace = s.trace := rfl

@[simp] theorem State.setDc_session (s : State) (l : Level) : (s.setLine .dc l).session = s.session := rfl
@[simp] theorem State.setDc_running (s : State) (l : Level) : (s.setLine .dc l).running = s.running := rfl
@[simp] theorem State.setDc_op (s : State) (l : Level) : (s.setLine .dc l).op = s.op := rfl
@[simp] theorem State.setDc_a (s : State) (l : Level) : (s.setLine .dc l).a = s.a := rfl
@[simp] theorem State.setDc_pc (s : State) (l : Level) : (s.setLine .dc l).pc = s.pc := rfl
@[simp] theorem State.setDc_waitCnt (s : State) (l : Level) : (s.setLine .dc l).waitCnt = s.waitCnt := rfl
@[simp] theorem State.setDc_result (s : State) (l : Level) : (s.setLine .dc l).result = s.result := rfl
@[simp] theorem State.setDc_lineRst (s : State) (l : Level) : (s.setLine .dc l).lineRst = s.lineRst := rfl
@[simp] theorem State.setDc_lineDc (s : State) (l : Level) : (s.setLine .dc l).lineDc = l := rfl
@[simp] theorem State.setDc_lineCs (s : State) (l : Level) : (s.setLine .dc l).lineCs = s.lineCs := rfl
@[simp] theorem State.setDc_busyPin (s : State) (l : Level) : (s.setLine .dc l).busyPin = s.busyPin := rfl
@[simp] theorem State.setDc_reqs (s : State) (l : Level) : (s.setLine .dc l).reqs = s.reqs := rfl
@[simp] theorem State.setDc_resetIn (s : State) (l : Level) : (s.setLine .dc l).resetIn = s.resetIn := rfl
@[simp] theorem State.setDc_pinAnswers (s : State) (l : Level) : (s.setLine .dc l).pinAnswers = s.pinAnswers := rfl
@[simp] theorem State.setDc_sendAnswers (s : State) (l : Level) : (s.setLine .dc l).sendAnswers = s.sendAnswers := rfl
@[simp] theorem State.setDc_busyLevels (s : State) (l : Level) : (s.setLine .dc l).busyLevels = s.busyLevels := rfl
@[simp] theorem State.setDc_draws (s : State) (l : Level) : (s.setLine .dc l).draws = s.draws := rfl
@[simp] theorem State.setDc_trace (s : State) (l : Level) : (s.setLine .dc l).trace = s.trace := rfl

@[simp] theorem State.respond_session (s : State) (cls : RespClass) (code : RespCode) : (s.respond cls code).session = s.session := rfl
@[simp] theorem State.respond_running (s : State) (cls : RespClass) (code : RespCode) : (s.respond cls code).running = s.running := rfl
@[simp] theorem State.respond_op (s : State) (cls : RespClass) (code : RespCode) : (s.respond cls code).op = s.op := rfl
@[simp] theorem State.respond_a (s : State) (cls : RespClass) (code : RespCode) : (s.respond cls code).a = s.a := rfl
@[simp] theorem State.respond_pc (s : State) (cls : RespClass) (code : RespCode) : (s.respond cls code).pc = s.pc := rfl
@[simp] theorem State.respond_waitCnt (s : State) (cls : RespClass) (code : RespCode) : (s.respond cls code).waitCnt = s.waitCnt := rfl
@[simp] theorem State.respond_result (s : State) (cls : RespClass) (code : RespCode) : (s.respond cls code).result = ⟨true, cls, code⟩ := rfl
@[simp] theorem State.respond_lineRst (s : State) (cls : RespClass) (code : RespCode) : (s.respond cls code).lineRst = s.lineRst := rfl
@[simp] theorem State.respond_lineDc (s : State) (cls : RespClass) (code : RespCode) : (s.respond cls code).lineDc = s.lineDc := rfl
@[simp] theorem State.respond_lineCs (s : State) (cls : RespClass) (code : RespCode) : (s.respond cls code).lineCs = s.lineCs := rfl
@[simp] theorem State.respond_busyPin (s : State) (cls : RespClass) (code : RespCode) : (s.respond cls code).busyPin = s.busyPin := rfl
@[simp] theorem State.respond_reqs (s : State) (cls : RespClass) (code : RespCode) : (s.respond cls code).reqs = s.reqs := rfl
@[simp] theorem State.respond_resetIn (s : State) (cls : RespClass) (code : RespCode) : (s.respond cls code).resetIn = s.resetIn := rfl
@[simp] theorem State.respond_pinAnswers (s : State) (cls : RespClass) (code : RespCode) : (s.respond cls code).pinAnswers = s.pinAnswers := rfl
@[simp] theorem State.respond_sendAnswers (s : State) (cls : RespClass) (code : RespCode) : (s.respond cls code).sendAnswers = s.sendAnswers := rfl
@[simp] theorem State.respond_busyLevels (s : State) (cls : RespClass) (code : RespCode) : (s.respond cls code).busyLevels = s.busyLevels := rfl
@[simp] theorem State.respond_draws (s : State) (cls : RespClass) (code : RespCode) : (s.respond cls code).draws = s.draws := rfl
@[simp] theorem State.respond_trace (s : State) (cls : RespClass) (code : RespCode) : (s.respond cls code).trace = s.trace ++ [.response cls code] := rfl

end Sys2Proof.Machine
end

