-- ==== Sys2Proof/Laws/Ops.lean ====
section
/-! SUPPORT. What the shared operations can do, said once each: the answers of the environment, the port primitives, SendFrame and
the other sub-steps, and what they leave alone. -/

namespace Sys2Proof.Machine

/-! ### The environment's answers -/

theorem pinAnswer_listed {s : State} {r : Answer} {rest : List Answer} (h : s.pinAnswers = r :: rest) :
    pinAnswer s = (r, { s with pinAnswers := rest }) := by
  simp [pinAnswer, h]

theorem sendAnswer_listed {s : State} {r : Answer} {rest : List Answer} (h : s.sendAnswers = r :: rest) :
    sendAnswer s = (r, { s with sendAnswers := rest }) := by
  simp [sendAnswer, h]

theorem busyLevel_listed {s : State} {l : Level} {rest : List Level} (h : s.busyLevels = l :: rest) :
    busyLevel s = (l, { s with busyLevels := rest }) := by
  simp [busyLevel, h]

/-- An answer to a pin write uses up an answer or a free value, and nothing else. -/
theorem pinAnswer_cases (s : State) :
    ∃ r ps d, pinAnswer s = (r, { s with pinAnswers := ps, draws := d }) := by
  cases h : s.pinAnswers with
  | nil => exact ⟨Config.freePinAnswer s.draws, [], s.draws + 1, by simp [pinAnswer, h, State.drawn]⟩
  | cons r rest => exact ⟨r, rest, s.draws, by simp [pinAnswer, h]⟩

/-- An answer to a send uses up an answer or a free value, and nothing else. -/
theorem sendAnswer_cases (s : State) :
    ∃ r ss d, sendAnswer s = (r, { s with sendAnswers := ss, draws := d }) := by
  cases h : s.sendAnswers with
  | nil => exact ⟨Config.freeSendAnswer s.draws, [], s.draws + 1, by simp [sendAnswer, h, State.drawn]⟩
  | cons r rest => exact ⟨r, rest, s.draws, by simp [sendAnswer, h]⟩

/-- A busy read uses up a level or a free value, and nothing else. -/
theorem busyLevel_cases (s : State) :
    ∃ l bs d, busyLevel s = (l, { s with busyLevels := bs, draws := d }) := by
  cases h : s.busyLevels with
  | nil => exact ⟨Config.freeBusy s.draws, [], s.draws + 1, by simp [busyLevel, h, State.drawn]⟩
  | cons l rest => exact ⟨l, rest, s.draws, by simp [busyLevel, h]⟩

/-! ### Port primitives -/

/-- A pin write answered `ok` sets the line; a fault leaves some level on it. -/
theorem pinWrite_cases (p : Pin) (l : Level) (s : State) :
    (∃ ps d, pinWrite p l s =
      (.ok, { s.setLine p l with pinAnswers := ps, draws := d, trace := s.trace ++ [.pinWrite p l] })) ∨
    (∃ l' ps d, pinWrite p l s =
      (.fault, { s.setLine p l' with pinAnswers := ps, draws := d, trace := s.trace ++ [.pinWriteFault p l] })) := by
  obtain ⟨r, ps, d, h⟩ := pinAnswer_cases s
  cases r with
  | ok => exact .inl ⟨ps, d, by cases p <;> simp [pinWrite, h, State.setLine, State.log]⟩
  | fault =>
    exact .inr ⟨Config.freeLevel d, ps, d + 1, by cases p <;> simp [pinWrite, h, State.setLine, State.log, State.drawn]⟩

/-- A send answered `ok` sends the payload whole; of a faulted send some bytes are delivered. Chip-select ends inactive. -/
theorem serSend_cases (payload : List Byte) (s : State) :
    (∃ ss d, serSend payload s =
      (.ok, { s with lineCs := .inactive, sendAnswers := ss, draws := d, trace := s.trace ++ [.send payload] })) ∨
    (∃ n ss d, n ≤ payload.length ∧ serSend payload s =
      (.fault,
        { s with lineCs := .inactive, sendAnswers := ss, draws := d, trace := s.trace ++ [.sendFault payload n] })) := by
  obtain ⟨r, ss, d, h⟩ := sendAnswer_cases { s with lineCs := .active }
  cases r with
  | ok => exact .inl ⟨ss, d, by simp [serSend, h, State.log]⟩
  | fault =>
    exact .inr ⟨min (Config.freeDelivered d) payload.length, ss, d + 1, Nat.min_le_right _ _,
      by simp [serSend, h, State.log, State.drawn]⟩

/-! ### SendFrame (R70) -/

/-- Everything SendFrame can do: the frame is sent; or the select line faults and nothing is sent; or the send faults. -/
theorem sendFrame_cases (c : Config) (f : Frame) (s : State) :
    (∃ ps ss d, sendFrame c f s =
      { s with
        lineDc := selectLevel c f.mode, lineCs := .inactive, pc := s.pc + 1
        pinAnswers := ps, sendAnswers := ss, draws := d
        trace := s.trace ++ [.pinWrite .dc (selectLevel c f.mode), .send f.payload] }) ∨
    (∃ l ps d, sendFrame c f s =
      { s with
        lineDc := l, running := false, result := ⟨true, classOf s.op, .gpio⟩
        pinAnswers := ps, draws := d
        trace := s.trace ++ [.pinWriteFault .dc (selectLevel c f.mode), .response (classOf s.op) .gpio] }) ∨
    (∃ n ps ss d, n ≤ f.payload.length ∧ sendFrame c f s =
      { s with
        lineDc := selectLevel c f.mode, lineCs := .inactive, running := false
        result := ⟨true, classOf s.op, .bus⟩
        pinAnswers := ps, sendAnswers := ss, draws := d
        trace := s.trace ++ [.pinWrite .dc (selectLevel c f.mode), .sendFault f.payload n,
          .response (classOf s.op) .bus] }) := by
  rcases pinWrite_cases .dc (selectLevel c f.mode) s with ⟨ps, d, h⟩ | ⟨l, ps, d, h⟩
  · rcases serSend_cases f.payload
      { s.setLine .dc (selectLevel c f.mode) with
        pinAnswers := ps, draws := d, trace := s.trace ++ [.pinWrite .dc (selectLevel c f.mode)] }
      with ⟨ss, e, g⟩ | ⟨n, ss, e, hn, g⟩
    · simp only [State.setLine] at g h
      exact .inl ⟨ps, ss, e, by simp [sendFrame, setSelect, h, g, State.advance]⟩
    · simp only [State.setLine] at g h
      exact .inr (.inr ⟨n, ps, ss, e, hn, by simp [sendFrame, setSelect, h, g, abort, State.respond]⟩)
  · exact .inr (.inl ⟨l, ps, d, by simp [sendFrame, setSelect, h, abort, State.respond, State.setLine]⟩)

/-- With both answers `ok`, the frame is sent. -/
theorem sendFrame_sent {c : Config} {f : Frame} {s : State} {ps ss : List Answer} (hp : s.pinAnswers = .ok :: ps)
    (hs : s.sendAnswers = .ok :: ss) :
    sendFrame c f s =
      { s with
        lineDc := selectLevel c f.mode, lineCs := .inactive, pc := s.pc + 1
        pinAnswers := ps, sendAnswers := ss
        trace := s.trace ++ [.pinWrite .dc (selectLevel c f.mode), .send f.payload] } := by
  simp [sendFrame, setSelect, pinWrite, pinAnswer, serSend, sendAnswer, hp, hs, State.advance, State.log, State.setLine]

/-- With a faulted select-line write, GPIO, and nothing is sent. -/
theorem sendFrame_selectFault {c : Config} {f : Frame} {s : State} {ps : List Answer} (hp : s.pinAnswers = .fault :: ps) :
    sendFrame c f s =
      { s with
        lineDc := Config.freeLevel s.draws, running := false, result := ⟨true, classOf s.op, .gpio⟩
        pinAnswers := ps, draws := s.draws + 1
        trace := s.trace ++ [.pinWriteFault .dc (selectLevel c f.mode), .response (classOf s.op) .gpio] } := by
  simp [sendFrame, setSelect, pinWrite, pinAnswer, hp, abort, State.respond, State.log, State.setLine, State.drawn]

/-- With a faulted send, BUS. -/
theorem sendFrame_sendFault {c : Config} {f : Frame} {s : State} {ps ss : List Answer} (hp : s.pinAnswers = .ok :: ps)
    (hs : s.sendAnswers = .fault :: ss) :
    sendFrame c f s =
      { s with
        lineDc := selectLevel c f.mode, lineCs := .inactive, running := false
        result := ⟨true, classOf s.op, .bus⟩
        pinAnswers := ps, sendAnswers := ss, draws := s.draws + 1
        trace := s.trace ++ [.pinWrite .dc (selectLevel c f.mode),
          .sendFault f.payload (min (Config.freeDelivered s.draws) f.payload.length), .response (classOf s.op) .bus] } := by
  simp [sendFrame, setSelect, pinWrite, pinAnswer, serSend, sendAnswer, hp, hs, abort, State.respond, State.log,
    State.setLine, State.drawn]

/-! ### RST and WAIT (R80, R90) -/

/-- Everything `RST(l)` can do. -/
theorem rstStep_cases (l : Level) (s : State) :
    (∃ ps d, rstStep l s =
      { s with lineRst := l, pc := s.pc + 1, pinAnswers := ps, draws := d, trace := s.trace ++ [.pinWrite .rst l] }) ∨
    (∃ l' ps d, rstStep l s =
      { s with
        lineRst := l', running := false, result := ⟨true, classOf s.op, .gpio⟩, pinAnswers := ps, draws := d
        trace := s.trace ++ [.pinWriteFault .rst l, .response (classOf s.op) .gpio] }) := by
  rcases pinWrite_cases .rst l s with ⟨ps, d, h⟩ | ⟨l', ps, d, h⟩
  · exact .inl ⟨ps, d, by simp [rstStep, h, State.advance, State.setLine]⟩
  · exact .inr ⟨l', ps, d, by simp [rstStep, h, abort, State.respond, State.setLine]⟩

/-- Everything one iteration of the busy wait can do: it ends, backs off, or times out. -/
theorem waitStep_cases (c : Config) (s : State) :
    (∃ bs d, waitStep c s =
      { s with waitCnt := 0, pc := s.pc + 1, busyLevels := bs, draws := d, trace := s.trace ++ [.busyRead .low] }) ∨
    (∃ bs d, waitExpired c s.waitCnt = false ∧ waitStep c s =
      { s with
        waitCnt := s.waitCnt + 1, busyLevels := bs, draws := d
        trace := s.trace ++ [.busyRead .high, .delay c.backoffMs] }) ∨
    (∃ bs d, waitExpired c s.waitCnt = true ∧ waitStep c s =
      { s with
        running := false, result := ⟨true, classOf s.op, .timeout⟩, busyLevels := bs, draws := d
        trace := s.trace ++ [.busyRead .high, .response (classOf s.op) .timeout] }) := by
  obtain ⟨l, bs, d, h⟩ := busyLevel_cases s
  cases l with
  | low => exact .inl ⟨bs, d, by simp [waitStep, busyRead, h, State.advance, State.log]⟩
  | high =>
    cases hx : waitExpired c s.waitCnt with
    | false => exact .inr (.inl ⟨bs, d, rfl, by simp [waitStep, busyRead, h, hx, delay, State.log]⟩)
    | true => exact .inr (.inr ⟨bs, d, rfl, by simp [waitStep, busyRead, h, hx, abort, State.respond, State.log]⟩)

theorem waitStep_idle {c : Config} {s : State} {bs : List Level} (h : s.busyLevels = .low :: bs) :
    waitStep c s =
      { s with waitCnt := 0, pc := s.pc + 1, busyLevels := bs, trace := s.trace ++ [.busyRead .low] } := by
  simp [waitStep, busyRead, busyLevel, h, State.advance, State.log]

theorem waitStep_backOff {c : Config} {s : State} {bs : List Level} (h : s.busyLevels = .high :: bs)
    (hx : waitExpired c s.waitCnt = false) :
    waitStep c s =
      { s with
        waitCnt := s.waitCnt + 1, busyLevels := bs, trace := s.trace ++ [.busyRead .high, .delay c.backoffMs] } := by
  simp [waitStep, busyRead, busyLevel, h, hx, delay, State.log]

theorem waitStep_expired {c : Config} {s : State} {bs : List Level} (h : s.busyLevels = .high :: bs)
    (hx : waitExpired c s.waitCnt = true) :
    waitStep c s =
      { s with
        running := false, result := ⟨true, classOf s.op, .timeout⟩, busyLevels := bs
        trace := s.trace ++ [.busyRead .high, .response (classOf s.op) .timeout] } := by
  simp [waitStep, busyRead, busyLevel, h, hx, abort, State.respond, State.log]

/-! ### Sub-steps (R131, R132) -/

/-- What an abort in a sub-step leaves of the state before it: everything but RUNNING, RESULT, the line of the faulted pin
write, and the inputs used up. -/
def SameBlock (s t : State) : Prop :=
  t.session = s.session ∧ t.op = s.op ∧ t.a = s.a ∧ t.pc = s.pc ∧ t.waitCnt = s.waitCnt

/-- Everything a sub-step can do to the sequencer: it succeeds and `PC` moves by one; or it is a `WAIT` that backs off; or it
aborts, and then the registers stay. -/
theorem runSubStep_cases (c : Config) (sub : SubStep) (s : State) :
    ((runSubStep c sub s).running = s.running ∧ (runSubStep c sub s).pc = s.pc + 1 ∧
      (runSubStep c sub s).result = s.result) ∨
    (sub = .wait ∧ waitExpired c s.waitCnt = false ∧ (runSubStep c sub s).running = s.running ∧
      (runSubStep c sub s).pc = s.pc ∧ (runSubStep c sub s).waitCnt = s.waitCnt + 1 ∧
      (runSubStep c sub s).result = s.result) ∨
    (∃ cause, (runSubStep c sub s).running = false ∧ SameBlock s (runSubStep c sub s) ∧
      (runSubStep c sub s).result = ⟨true, classOf s.op, cause⟩ ∧
      (cause = .timeout ∧ sub = .wait ∨ cause = .gpio ∧ (sub.isFrame = true ∨ ∃ l, sub = .rst l) ∨
        cause = .bus ∧ sub.isFrame = true)) := by
  cases sub with
  | state x => exact .inl ⟨rfl, rfl, rfl⟩
  | hold ms => exact .inl ⟨rfl, rfl, rfl⟩
  | emit e => exact .inl ⟨rfl, rfl, rfl⟩
  | rst l =>
    rcases rstStep_cases l s with ⟨ps, d, h⟩ | ⟨l', ps, d, h⟩
    · exact .inl (by simp [runSubStep, h])
    · exact .inr (.inr ⟨.gpio, by simp [runSubStep, h, SameBlock]⟩)
  | cmd op b =>
    rcases sendFrame_cases c ⟨.command, [b]⟩ s with ⟨ps, ss, d, h⟩ | ⟨l, ps, d, h⟩ | ⟨n, ps, ss, d, -, h⟩
    · exact .inl (by simp [runSubStep, h])
    · exact .inr (.inr ⟨.gpio, by simp [runSubStep, h, SameBlock, SubStep.isFrame]⟩)
    · exact .inr (.inr ⟨.bus, by simp [runSubStep, h, SameBlock, SubStep.isFrame]⟩)
  | data op bytes =>
    rcases sendFrame_cases c ⟨.data, bytes⟩ s with ⟨ps, ss, d, h⟩ | ⟨l, ps, d, h⟩ | ⟨n, ps, ss, d, -, h⟩
    · exact .inl (by simp [runSubStep, h])
    · exact .inr (.inr ⟨.gpio, by simp [runSubStep, h, SameBlock, SubStep.isFrame]⟩)
    · exact .inr (.inr ⟨.bus, by simp [runSubStep, h, SameBlock, SubStep.isFrame]⟩)
  | wait =>
    rcases waitStep_cases c s with ⟨bs, d, h⟩ | ⟨bs, d, hx, h⟩ | ⟨bs, d, hx, h⟩
    · exact .inl (by simp [runSubStep, h])
    · exact .inr (.inl (by simp [runSubStep, h, hx]))
    · exact .inr (.inr ⟨.timeout, by simp [runSubStep, h, SameBlock]⟩)

/-- No sub-step writes the latches or takes a host input. -/
theorem runSubStep_keeps (c : Config) (sub : SubStep) (s : State) :
    (runSubStep c sub s).op = s.op ∧ (runSubStep c sub s).a = s.a ∧ (runSubStep c sub s).reqs = s.reqs ∧
      (runSubStep c sub s).resetIn = s.resetIn := by
  cases sub with
  | state x => exact ⟨rfl, rfl, rfl, rfl⟩
  | hold ms => exact ⟨rfl, rfl, rfl, rfl⟩
  | emit e => exact ⟨rfl, rfl, rfl, rfl⟩
  | rst l => rcases rstStep_cases l s with ⟨ps, d, h⟩ | ⟨l', ps, d, h⟩ <;> simp [runSubStep, h]
  | cmd op b =>
    rcases sendFrame_cases c ⟨.command, [b]⟩ s with ⟨ps, ss, d, h⟩ | ⟨l, ps, d, h⟩ | ⟨n, ps, ss, d, -, h⟩ <;>
      simp [runSubStep, h]
  | data op bytes =>
    rcases sendFrame_cases c ⟨.data, bytes⟩ s with ⟨ps, ss, d, h⟩ | ⟨l, ps, d, h⟩ | ⟨n, ps, ss, d, -, h⟩ <;>
      simp [runSubStep, h]
  | wait =>
    rcases waitStep_cases c s with ⟨bs, d, h⟩ | ⟨bs, d, hx, h⟩ | ⟨bs, d, hx, h⟩ <;> simp [runSubStep, h]

/-- Only a `STATE` sub-step writes SESSION_STATE (R11). -/
theorem runSubStep_session (c : Config) (sub : SubStep) (s : State) (hs : ∀ x, sub ≠ .state x) :
    (runSubStep c sub s).session = s.session := by
  cases sub with
  | state x => exact absurd rfl (hs x)
  | hold ms => rfl
  | emit e => rfl
  | rst l => rcases rstStep_cases l s with ⟨ps, d, h⟩ | ⟨l', ps, d, h⟩ <;> simp [runSubStep, h]
  | cmd op b =>
    rcases sendFrame_cases c ⟨.command, [b]⟩ s with ⟨ps, ss, d, h⟩ | ⟨l, ps, d, h⟩ | ⟨n, ps, ss, d, -, h⟩ <;>
      simp [runSubStep, h]
  | data op bytes =>
    rcases sendFrame_cases c ⟨.data, bytes⟩ s with ⟨ps, ss, d, h⟩ | ⟨l, ps, d, h⟩ | ⟨n, ps, ss, d, -, h⟩ <;>
      simp [runSubStep, h]
  | wait =>
    rcases waitStep_cases c s with ⟨bs, d, h⟩ | ⟨bs, d, hx, h⟩ | ⟨bs, d, hx, h⟩ <;> simp [runSubStep, h]

/-- The trace only grows (R9, R40). -/
theorem runSubStep_trace (c : Config) (sub : SubStep) (s : State) :
    ∃ es, (runSubStep c sub s).trace = s.trace ++ es := by
  cases sub with
  | state x => exact ⟨[], by simp [runSubStep, stateStep]⟩
  | hold ms => exact ⟨_, rfl⟩
  | emit e => exact ⟨_, rfl⟩
  | rst l => rcases rstStep_cases l s with ⟨ps, d, h⟩ | ⟨l', ps, d, h⟩ <;> exact ⟨_, by rw [runSubStep, h]⟩
  | cmd op b =>
    rcases sendFrame_cases c ⟨.command, [b]⟩ s with ⟨ps, ss, d, h⟩ | ⟨l, ps, d, h⟩ | ⟨n, ps, ss, d, -, h⟩ <;>
      exact ⟨_, by rw [runSubStep, h]⟩
  | data op bytes =>
    rcases sendFrame_cases c ⟨.data, bytes⟩ s with ⟨ps, ss, d, h⟩ | ⟨l, ps, d, h⟩ | ⟨n, ps, ss, d, -, h⟩ <;>
      exact ⟨_, by rw [runSubStep, h]⟩
  | wait =>
    rcases waitStep_cases c s with ⟨bs, d, h⟩ | ⟨bs, d, hx, h⟩ | ⟨bs, d, hx, h⟩ <;> exact ⟨_, by rw [runSubStep, h]⟩

/-! ### Host operations -/

/-- Everything a step of a host operation can do. -/
theorem hostOperation_cases (c : Config) (op : Byte) (a : Operands) (needsIdle opsOk : Bool) (mp : List SubStep)
    (s : State) :
    (s.running = false ∧ hostOperation c op a needsIdle opsOk mp s = .next (takeRequest op a needsIdle opsOk s)) ∨
    (∃ sub, s.running = true ∧ mp[s.pc]? = some sub ∧
      hostOperation c op a needsIdle opsOk mp s = .next (runSubStep c sub s)) ∨
    (s.running = true ∧ s.pc = mp.length ∧ hostOperation c op a needsIdle opsOk mp s = .next (complete s)) ∨
    (s.running = true ∧ mp.length < s.pc ∧ hostOperation c op a needsIdle opsOk mp s = .fault .pcPastEnd) := by
  cases hr : s.running with
  | false => exact .inl ⟨rfl, by simp [hostOperation, hr]⟩
  | true =>
    cases hm : mp[s.pc]? with
    | some sub => exact .inr (.inl ⟨sub, rfl, rfl, by simp [hostOperation, hr, hm]⟩)
    | none =>
      have hle : mp.length ≤ s.pc := List.getElem?_eq_none_iff.mp hm
      by_cases he : s.pc = mp.length
      · exact .inr (.inr (.inl ⟨rfl, he, by simp [hostOperation, hr, he]⟩))
      · exact .inr (.inr (.inr ⟨rfl, by omega, by simp [hostOperation, hr, hm, he]⟩))

/-- A taken request is refused for its state, refused for its operands, or accepted (R130). -/
theorem takeRequest_cases (op : Byte) (a : Operands) (needsIdle opsOk : Bool) (s : State) :
    (needsIdle = true ∧ s.session ≠ .idle ∧ takeRequest op a needsIdle opsOk s = refuse .state s) ∨
    ((needsIdle = false ∨ s.session = .idle) ∧ opsOk = false ∧ takeRequest op a needsIdle opsOk s = refuse .param s) ∨
    ((needsIdle = false ∨ s.session = .idle) ∧ opsOk = true ∧ takeRequest op a needsIdle opsOk s = accept op a s) := by
  cases needsIdle <;> cases opsOk <;> by_cases h : s.session = .idle <;> simp [takeRequest, h]

end Sys2Proof.Machine
end

