-- ==== Sys2Proof/Laws/PerInstr.lean ====
section
/-! SUPPORT. For every operation: its encoding has the fixed bits of its row of the opcode table. -/

namespace Sys2Proof.Laws.OpcodeBits

open Sys2Proof

/-- The encoding of the operation, as the opcode table numbers its bits, is as wide as its row and has the row's fixed bits. -/
def Statement (i : Instr) : Prop :=
  i.row.fits (encode i).tableBits.1 (encode i).tableBits.2 = true

/-- A request word is its opcode above 64 operand bits. -/
theorem packRequest_toNat (op : Byte) (a : Operands) :
    ∃ r, r < 2 ^ 64 ∧ (packRequest op a).toNat = op.toNat * 2 ^ 64 + r := by
  have h0 := a.a0.isLt
  have h1 := a.a1.isLt
  have h2 := a.a2.isLt
  have h3 := a.a3.isLt
  refine ⟨((a.a0.toNat * 2 ^ 16 + a.a1.toNat) * 2 ^ 16 + a.a2.toNat) * 2 ^ 16 + a.a3.toNat, by omega, ?_⟩
  rw [packRequest, BitVec.toNat_append, ← Nat.shiftLeft_add_eq_or_of_lt h3, BitVec.toNat_append,
    ← Nat.shiftLeft_add_eq_or_of_lt h2, BitVec.toNat_append, ← Nat.shiftLeft_add_eq_or_of_lt h1, BitVec.toNat_append,
    ← Nat.shiftLeft_add_eq_or_of_lt h0]
  simp only [Nat.shiftLeft_eq]
  omega

/-- The bits of the mask of a REQ72 row are the opcode. -/
theorem request_fits (op : Byte) (a : Operands) :
    (requestRow op.toNat).fits 72 (packRequest op a).toNat = true := by
  obtain ⟨r, hr, h⟩ := packRequest_toNat op a
  have key : (op.toNat * 2 ^ 64 + r) &&& (255 * 2 ^ 64) = op.toNat * 2 ^ 64 := by
    apply Nat.eq_of_testBit_eq
    intro k
    rw [Nat.testBit_and, Nat.mul_comm, Nat.testBit_two_pow_mul_add _ hr, Nat.mul_comm 255, Nat.testBit_two_pow_mul,
      Nat.testBit_two_pow_mul]
    by_cases hk : k < 64
    · simp [hk, Nat.not_le.mpr hk]
    · have hle : 64 ≤ k := Nat.not_lt.mp hk
      simp only [hk, hle, if_false, decide_true, Bool.true_and]
      have h255 : (255 : Nat) = 2 ^ 8 - 1 := rfl
      rw [h255, Nat.testBit_two_pow_sub_one]
      by_cases h8 : k - 64 < 8
      · simp [h8]
      · have : op.toNat.testBit (k - 64) = false :=
          Nat.testBit_lt_two_pow (Nat.lt_of_lt_of_le op.isLt (Nat.pow_le_pow_right (by decide) (Nat.not_lt.mp h8)))
        simp [this]
  rw [OpcodeRow.fits, Bool.and_eq_true, beq_iff_eq, beq_iff_eq, h]
  refine ⟨rfl, ?_⟩
  rw [show (requestRow op.toNat).pattern = op.toNat * 2 ^ 64 from Nat.shiftLeft_eq _ _]
  exact key

/-- A command byte is its own row. -/
theorem wire_fits (cmd : Byte) : (wireRow cmd.toNat).fits 8 cmd.toNat = true := by
  revert cmd
  decide

theorem init (a : Operands) : Statement (.init a) := request_fits opInit a
theorem clear (a : Operands) : Statement (.clear a) := request_fits opClear a
theorem display (a : Operands) : Statement (.display a) := request_fits opDisplay a
theorem setarea (a : Operands) : Statement (.setarea a) := request_fits opSetArea a
theorem setptr (a : Operands) : Statement (.setptr a) := request_fits opSetPtr a
theorem driverOutputControl : Statement .driverOutputControl := wire_fits 0x01
theorem boosterSoftStart : Statement .boosterSoftStart := wire_fits 0x0C
theorem writeVcom : Statement .writeVcom := wire_fits 0x2C
theorem setDummyLine : Statement .setDummyLine := wire_fits 0x3A
theorem setGateTime : Statement .setGateTime := wire_fits 0x3B
theorem dataEntryMode : Statement .dataEntryMode := wire_fits 0x11
theorem writeLut : Statement .writeLut := wire_fits 0x32
theorem setXWindow (xStart xEnd : U16) : Statement (.setXWindow xStart xEnd) := wire_fits 0x44
theorem setYWindow (yStart yEnd : U16) : Statement (.setYWindow yStart yEnd) := wire_fits 0x45
theorem setXCounter (x : U16) : Statement (.setXCounter x) := wire_fits 0x4E
theorem setYCounter (y : U16) : Statement (.setYCounter y) := wire_fits 0x4F
theorem writeRam (payload : List Byte) : Statement (.writeRam payload) := wire_fits 0x24
theorem displayUpdateControl2 : Statement .displayUpdateControl2 := wire_fits 0x22
theorem masterActivation : Statement .masterActivation := wire_fits 0x20
theorem terminateFrameRw : Statement .terminateFrameRw := wire_fits 0xFF

end Sys2Proof.Laws.OpcodeBits
end

