-- ==== Sys2Proof/Laws/Step.lean ====
section
/-! SUPPORT. What a meaning does for each kind of operation, and what a step can do, said once of every configuration; then of the
instance. -/

namespace Sys2Proof.Machine

/-- A wire operation's meaning sends the frame of its encoding that is due. -/
theorem execOf_wire {c : Config} {i : Instr} {w : WireCode} (h : encodeWith c i = .wire w) (s : State) :
    execOf c i s = .next (sendFrame c (frameDue c w s) s) := by
  cases i <;> simp only [encodeWith, reduceCtorEq, Code.wire.injEq] at h <;> subst h <;> rfl

/-- The meaning of the host operation of an opcode is one step of its micro-program. -/
theorem execOf_host {c : Config} {op : Byte} {a : Operands} {i : Instr} (h : decodeHost op a = .ok i) (s : State) :
    ∃ needsIdle opsOk, execOf c i s =
      hostOperation c op a needsIdle opsOk (microProgram c op a) s := by
  rcases decodeHost_cases h with ⟨rfl, rfl⟩ | ⟨rfl, rfl⟩ | ⟨rfl, rfl⟩ | ⟨rfl, rfl⟩ | ⟨rfl, rfl⟩ <;>
    exact ⟨_, _, rfl⟩

/-- A step when block reset is not asserted is the block's own. -/
theorem stepOf_noReset {c : Config} {s : State} (h : s.resetIn = [] ∨ ∃ rest, s.resetIn = .released :: rest) :
    stepOf c s = sequencerStep c { s with resetIn := s.resetIn.tail } := by
  rcases h with h | ⟨rest, h⟩
  · have : s = { s with resetIn := s.resetIn.tail } := by
      cases s
      simp_all
    rw [stepOf, h]
    simpa [h] using congrArg (sequencerStep c) this
  · simp [stepOf, h]

/-- At a `CMD` sub-step the Command frame of the operation is due. -/
theorem frameDue_cmd {c : Config} {s : State} {i : Instr} {b : Byte} (h : currentSubStep c s = some (.cmd i b))
    (w : WireCode) : frameDue c w s = ⟨.command, [w.cmd]⟩ := by
  simp [frameDue, h]

/-- At a `DATA` sub-step the Data frame of an operation with data bytes is due. -/
theorem frameDue_data {c : Config} {s : State} {i : Instr} {bytes : List Byte}
    (h : currentSubStep c s = some (.data i bytes)) {w : WireCode} (hw : w.data ≠ []) :
    frameDue c w s = ⟨.data, w.data⟩ := by
  cases hd : w.data with
  | nil => exact absurd hd hw
  | cons b bs => simp [frameDue, h, hd]

/-- A running block executes the sub-step at `PC`, also where the step runs the meaning of the wire operation the frame
belongs to. -/
theorem sequencerStep_subStep {c : Config} {s : State} {sub : SubStep} (hr : s.running = true)
    (h : currentSubStep c s = some sub) : sequencerStep c s = .next (runSubStep c sub s) := by
  have htag := currentSubStep_tagOk h
  have h' : (microProgram c s.op s.a)[s.pc]? = some sub := h
  obtain ⟨i, hi⟩ := decodeHost_of_currentSubStep h
  have hhost : execOf c i s = .next (runSubStep c sub s) := by
    obtain ⟨n, o, he⟩ := execOf_host (c := c) hi s
    simp [he, hostOperation, hr, h']
  cases sub with
  | cmd op b =>
    obtain ⟨w, hw, rfl⟩ := htag
    simp [sequencerStep, hr, currentInstr, h, execOf_wire hw s, frameDue_cmd h, runSubStep]
  | data op bytes =>
    obtain ⟨w, hw, rfl, hne⟩ := htag
    simp [sequencerStep, hr, currentInstr, h, execOf_wire hw s, frameDue_data h hne, runSubStep]
  | _ => simp [sequencerStep, hr, currentInstr, h, hi, Decoded.toOption, hhost]

/-- A running block without a sub-step at `PC` completes at the end of its micro-program, and has no step anywhere else. -/
theorem sequencerStep_end {c : Config} {s : State} (hr : s.running = true) (h : currentSubStep c s = none) :
    (∃ i, decodeHost s.op s.a = .ok i ∧ s.pc = (microProgram c s.op s.a).length ∧
      sequencerStep c s = .next (complete s)) ∨
    (∃ i, decodeHost s.op s.a = .ok i ∧ (microProgram c s.op s.a).length < s.pc ∧
      sequencerStep c s = .fault .pcPastEnd) ∨
    (∃ e, decodeHost s.op s.a = .error e ∧ sequencerStep c s = .fault .reservedOperation) := by
  have h' : (microProgram c s.op s.a)[s.pc]? = none := h
  cases hd : decodeHost s.op s.a with
  | error e => exact .inr (.inr ⟨e, rfl, by simp [sequencerStep, hr, currentInstr, h, hd, Decoded.toOption]⟩)
  | ok i =>
    obtain ⟨n, o, he⟩ := execOf_host (c := c) hd s
    have hs : sequencerStep c s = execOf c i s := by simp [sequencerStep, hr, currentInstr, h, hd, Decoded.toOption]
    rw [hs, he]
    rcases hostOperation_cases c s.op s.a n o (microProgram c s.op s.a) s with
      ⟨hf, -⟩ | ⟨sub, -, hsub, -⟩ | ⟨-, hp, hc⟩ | ⟨-, hp, hc⟩
    · rw [hr] at hf; cases hf
    · rw [h'] at hsub; cases hsub
    · exact .inl ⟨i, rfl, hp, hc⟩
    · exact .inr (.inl ⟨i, rfl, hp, hc⟩)

/-- The block that takes a request: refused for its opcode, its state or its operands, or accepted. -/
theorem takeWord_cases {c : Config} {req : Req} {s : State} (hr : s.running = false) :
    (∃ code, takeWord c req s = .next (refuse code s)) ∨
    (∃ i, decodeRequest req = .ok i ∧ ((reqOpcode req = opInit ∨ s.session = .idle) ∧
      (reqOpcode req = opSetArea → areaOk c (reqOperands req) = true) ∧
      (reqOpcode req = opSetPtr → pointerOk c (reqOperands req) = true)) ∧
      takeWord c req s = .next (accept (reqOpcode req) (reqOperands req) s)) := by
  cases hd : decodeRequest req with
  | error e => exact .inl ⟨.op, by simp [takeWord, hd]⟩
  | ok i =>
    have ht : takeWord c req s = execOf c i s := by simp [takeWord, hd]
    rw [ht]
    have key : ∀ needsIdle opsOk mp,
        execOf c i s = hostOperation c (reqOpcode req) (reqOperands req) needsIdle opsOk mp s →
        ((needsIdle = false ∨ s.session = .idle) → opsOk = true →
          ((reqOpcode req = opInit ∨ s.session = .idle) ∧
            (reqOpcode req = opSetArea → areaOk c (reqOperands req) = true) ∧
            (reqOpcode req = opSetPtr → pointerOk c (reqOperands req) = true))) →
        (∃ code, execOf c i s = .next (refuse code s)) ∨
        (∃ j, Decoded.ok i = .ok j ∧ ((reqOpcode req = opInit ∨ s.session = .idle) ∧
          (reqOpcode req = opSetArea → areaOk c (reqOperands req) = true) ∧
          (reqOpcode req = opSetPtr → pointerOk c (reqOperands req) = true)) ∧
          execOf c i s = .next (accept (reqOpcode req) (reqOperands req) s)) := by
      intro n o mp he hlegal
      simp only [hostOperation, hr, Bool.false_eq_true, if_false] at he
      rcases takeRequest_cases (reqOpcode req) (reqOperands req) n o s with ⟨-, -, h⟩ | ⟨-, -, h⟩ | ⟨hn, ho, h⟩
      · exact .inl ⟨.state, by rw [he, h]⟩
      · exact .inl ⟨.param, by rw [he, h]⟩
      · exact .inr ⟨i, rfl, hlegal hn ho, by rw [he, h]⟩
    rcases decodeHost_cases hd with ⟨ho, rfl⟩ | ⟨ho, rfl⟩ | ⟨ho, rfl⟩ | ⟨ho, rfl⟩ | ⟨ho, rfl⟩
    · exact key false true _ (by rw [ho]; rfl) (fun _ _ => by rw [ho]; simp [opInit, opSetArea, opSetPtr])
    · exact key true true _ (by rw [ho]; rfl) (fun h _ => by rw [ho]; simpa [opClear, opInit, opSetArea, opSetPtr] using h)
    · exact key true true _ (by rw [ho]; rfl)
        (fun h _ => by rw [ho]; simpa [opDisplay, opInit, opSetArea, opSetPtr] using h)
    · exact key true (areaOk c (reqOperands req)) _ (by rw [ho]; rfl)
        (fun h hx => by rw [ho]; simpa [opInit, opSetArea, opSetPtr, hx] using h)
    · exact key true (pointerOk c (reqOperands req)) _ (by rw [ho]; rfl)
        (fun h hx => by rw [ho]; simpa [opInit, opSetArea, opSetPtr, hx] using h)

/-- Everything a step can do when it answers a next state: block reset; the current sub-step; completion; a request refused or
accepted; or nothing but the port and block-reset inputs moving on. -/
theorem stepOf_cases {c : Config} {s t : State} (h : stepOf c s = .next t) :
    (∃ r rest, s.resetIn = r :: rest ∧ (r = .asserted ∧ t = blockReset c { s with resetIn := rest } ∨
      ∃ d, r = .duringSend d ∧ t = blockReset c (cutFrame c d { s with resetIn := rest }))) ∨
    ((s.resetIn = [] ∨ ∃ rest, s.resetIn = .released :: rest) ∧
      ((s.running = true ∧ ∃ sub, currentSubStep c s = some sub ∧
          t = runSubStep c sub { s with resetIn := s.resetIn.tail }) ∨
        (s.running = true ∧ s.pc = (microProgram c s.op s.a).length ∧
          (∃ i, decodeHost s.op s.a = .ok i) ∧ t = complete { s with resetIn := s.resetIn.tail }) ∨
        (s.running = false ∧ ∃ req rest, s.reqs = some req :: rest ∧
          ((∃ code, t = refuse code { s with resetIn := s.resetIn.tail, reqs := rest }) ∨
            ((∃ i, decodeRequest req = .ok i) ∧ (reqOpcode req = opInit ∨ s.session = .idle) ∧
              (reqOpcode req = opSetArea → areaOk c (reqOperands req) = true) ∧
              (reqOpcode req = opSetPtr → pointerOk c (reqOperands req) = true) ∧
              t = accept (reqOpcode req) (reqOperands req) { s with resetIn := s.resetIn.tail, reqs := rest }))) ∨
        (s.running = false ∧ t = { s with resetIn := s.resetIn.tail, reqs := s.reqs.tail }))) := by
  have own (hn : s.resetIn = [] ∨ ∃ rest, s.resetIn = .released :: rest) :
      sequencerStep c { s with resetIn := s.resetIn.tail } = .next t := by rw [← stepOf_noReset hn, h]
  by_cases hn : s.resetIn = [] ∨ ∃ rest, s.resetIn = .released :: rest
  · refine .inr ⟨hn, ?_⟩
    have hs := own hn
    rcases Bool.eq_false_or_eq_true s.running with hr | hr
    · -- an operation runs
      have hr' : ({ s with resetIn := s.resetIn.tail } : State).running = true := hr
      cases hc : currentSubStep c s with
      | some sub =>
        have hc' : currentSubStep c { s with resetIn := s.resetIn.tail } = some sub := hc
        rw [sequencerStep_subStep hr' hc', Host.Outcome.next.injEq] at hs
        exact .inl ⟨hr, sub, rfl, hs.symm⟩
      | none =>
        have hc' : currentSubStep c { s with resetIn := s.resetIn.tail } = none := hc
        rcases sequencerStep_end hr' hc' with ⟨i, hi, hp, he⟩ | ⟨i, hi, hp, he⟩ | ⟨e, hi, he⟩
        · rw [he, Host.Outcome.next.injEq] at hs
          exact .inr (.inl ⟨hr, hp, ⟨i, hi⟩, hs.symm⟩)
        · rw [he] at hs; cases hs
        · rw [he] at hs; cases hs
    · -- the port is ready
      cases hq : s.reqs with
      | nil =>
        simp only [sequencerStep, hr, hq, Bool.false_eq_true, if_false, Host.Outcome.next.injEq] at hs
        exact .inr (.inr (.inr ⟨hr, by rw [← hs, List.tail_nil, hr]⟩))
      | cons q qs =>
        cases q with
        | none =>
          simp only [sequencerStep, hr, hq, Bool.false_eq_true, if_false, Host.Outcome.next.injEq] at hs
          exact .inr (.inr (.inr ⟨hr, by rw [← hs, List.tail_cons, hr]⟩))
        | some req =>
          have hs' : takeWord c req { s with resetIn := s.resetIn.tail, reqs := qs } = .next t := by
            simpa [sequencerStep, hr, hq] using hs
          refine .inr (.inr (.inl ⟨hr, req, qs, rfl, ?_⟩))
          rcases takeWord_cases (req := req) (s := { s with resetIn := s.resetIn.tail, reqs := qs }) hr with
            ⟨code, he⟩ | ⟨i, hd, ⟨h1, h2, h3⟩, he⟩
          · rw [he, Host.Outcome.next.injEq] at hs'
            exact .inl ⟨code, hs'.symm⟩
          · rw [he, Host.Outcome.next.injEq] at hs'
            exact .inr ⟨⟨i, hd⟩, h1, h2, h3, hs'.symm⟩
  · refine .inl ?_
    cases hl : s.resetIn with
    | nil => exact absurd (.inl hl) hn
    | cons r rs =>
      cases r with
      | released => exact absurd (.inr ⟨rs, hl⟩) hn
      | asserted =>
        simp only [stepOf, hl, Host.Outcome.next.injEq] at h
        exact ⟨_, rs, rfl, .inl ⟨rfl, h.symm⟩⟩
      | duringSend d =>
        simp only [stepOf, hl, Host.Outcome.next.injEq] at h
        exact ⟨_, rs, rfl, .inr ⟨d, rfl, h.symm⟩⟩

/-- What a cut send leaves: the trace grows by events of the line and the cut alone. -/
theorem cutFrame_trace (c : Config) (d : Nat) (s : State) :
    ∃ es, (cutFrame c d s).trace = s.trace ++ es ∧ (cutFrame c d s).reqs = s.reqs ∧
      (cutFrame c d s).resetIn = s.resetIn ∧
      (es = [] ∨ (∃ l, es = [.pinWriteFault .dc l]) ∨
        ∃ l bytes n, n ≤ bytes.length ∧ es = [.pinWrite .dc l, .sendCut bytes n]) := by
  have cut : ∀ f : Frame, ∃ es, (cutSend c f d s).trace = s.trace ++ es ∧ (cutSend c f d s).reqs = s.reqs ∧
      (cutSend c f d s).resetIn = s.resetIn ∧
      (es = [] ∨ (∃ l, es = [.pinWriteFault .dc l]) ∨
        ∃ l bytes n, n ≤ bytes.length ∧ es = [.pinWrite .dc l, .sendCut bytes n]) := by
    intro f
    rcases pinWrite_cases .dc (selectLevel c f.mode) s with ⟨ps, e, h⟩ | ⟨l, ps, e, h⟩
    · exact ⟨[.pinWrite .dc (selectLevel c f.mode), .sendCut f.payload (min d f.payload.length)],
        by simp [cutSend, setSelect, h], by simp [cutSend, setSelect, h, State.setLine],
        by simp [cutSend, setSelect, h, State.setLine],
        .inr (.inr ⟨_, _, _, Nat.min_le_right _ _, rfl⟩)⟩
    · exact ⟨[.pinWriteFault .dc (selectLevel c f.mode)], by simp [cutSend, setSelect, h],
        by simp [cutSend, setSelect, h, State.setLine], by simp [cutSend, setSelect, h, State.setLine],
        .inr (.inl ⟨_, rfl⟩)⟩
  unfold cutFrame
  split
  · split
    · exact cut _
    · exact cut _
    · exact ⟨[], by simp, rfl, rfl, .inl rfl⟩
  · exact ⟨[], by simp, rfl, rfl, .inl rfl⟩

/-! ### The instance -/

theorem exec_eq (i : Instr) (s : State) : exec i s = execOf Config.epd i s := by cases i <;> rfl

theorem step_eq (s : State) : step s = stepOf Config.epd s := rfl

theorem exec_wire {i : Instr} {w : WireCode} (h : encode i = .wire w) (s : State) :
    exec i s = .next (sendFrame Config.epd (frameDue Config.epd w s) s) := by
  rw [exec_eq, execOf_wire h]

theorem exec_host {op : Byte} {a : Operands} {i : Instr} (h : decodeHost op a = .ok i) (s : State) :
    ∃ needsIdle opsOk, exec i s =
      hostOperation Config.epd op a needsIdle opsOk (microProgram Config.epd op a) s := by
  rw [exec_eq]
  exact execOf_host h s

theorem step_noReset {s : State} (h : s.resetIn = [] ∨ ∃ rest, s.resetIn = .released :: rest) :
    step s = sequencerStep Config.epd { s with resetIn := s.resetIn.tail } :=
  stepOf_noReset h

theorem step_cases {s t : State} (h : step s = .next t) :
    (∃ r rest, s.resetIn = r :: rest ∧ (r = .asserted ∧ t = blockReset Config.epd { s with resetIn := rest } ∨
      ∃ d, r = .duringSend d ∧ t = blockReset Config.epd (cutFrame Config.epd d { s with resetIn := rest }))) ∨
    ((s.resetIn = [] ∨ ∃ rest, s.resetIn = .released :: rest) ∧
      ((s.running = true ∧ ∃ sub, currentSubStep Config.epd s = some sub ∧
          t = runSubStep Config.epd sub { s with resetIn := s.resetIn.tail }) ∨
        (s.running = true ∧ s.pc = (microProgram Config.epd s.op s.a).length ∧
          (∃ i, decodeHost s.op s.a = .ok i) ∧ t = complete { s with resetIn := s.resetIn.tail }) ∨
        (s.running = false ∧ ∃ req rest, s.reqs = some req :: rest ∧
          ((∃ code, t = refuse code { s with resetIn := s.resetIn.tail, reqs := rest }) ∨
            ((∃ i, decodeRequest req = .ok i) ∧ (reqOpcode req = opInit ∨ s.session = .idle) ∧
              (reqOpcode req = opSetArea → areaOk Config.epd (reqOperands req) = true) ∧
              (reqOpcode req = opSetPtr → pointerOk Config.epd (reqOperands req) = true) ∧
              t = accept (reqOpcode req) (reqOperands req) { s with resetIn := s.resetIn.tail, reqs := rest }))) ∨
        (s.running = false ∧ t = { s with resetIn := s.resetIn.tail, reqs := s.reqs.tail }))) :=
  stepOf_cases h

end Sys2Proof.Machine
end

