-- ==== Sys2Proof/Laws/Runs.lean ====
section
/-! SUPPORT. Runs of several steps: their first step, their parts, and one sub-step at a time. -/

namespace Sys2Proof.Machine

theorem iterate_succ {f : State → Outcome} {s t : State} (h : f s = .next t) (n : Nat) :
    iterate f (n + 1) s = iterate f n t := by
  simp [iterate, h]

theorem iterate_add {f : State → Outcome} {m : Nat} {s t : State} (h : iterate f m s = .next t) (n : Nat) :
    iterate f (m + n) s = iterate f n t := by
  induction m generalizing s with
  | zero =>
    simp only [iterate, Host.Outcome.next.injEq] at h
    rw [h, Nat.zero_add]
  | succ m ih =>
    rw [show m + 1 + n = (m + n) + 1 by omega]
    simp only [iterate] at h ⊢
    cases hf : f s with
    | next u =>
      rw [hf] at h
      exact ih h
    | fault r => rw [hf] at h; cases h
    | refused r => rw [hf] at h; cases h

theorem execTimes_succ {i : Instr} {s t : State} (h : exec i s = .next t) (n : Nat) :
    execTimes i (n + 1) s = execTimes i n t :=
  iterate_succ h n

theorem execTimes_add {i : Instr} {m : Nat} {s t : State} (h : execTimes i m s = .next t) (n : Nat) :
    execTimes i (m + n) s = execTimes i n t :=
  iterate_add h n

/-- A running host operation executes the sub-step at `PC`. -/
theorem exec_subStep {op : Byte} {a : Operands} {i : Instr} {s : State} {sub : SubStep} (hi : decodeHost op a = .ok i)
    (hr : s.running = true) (h : (microProgram Config.epd op a)[s.pc]? = some sub) :
    exec i s = .next (runSubStep Config.epd sub s) := by
  obtain ⟨n, o, he⟩ := exec_host hi s
  simp [he, hostOperation, hr, h]

/-- A running host operation completes at the end of its micro-program. -/
theorem exec_end {op : Byte} {a : Operands} {i : Instr} {s : State} (hi : decodeHost op a = .ok i)
    (hr : s.running = true) (h : s.pc = (microProgram Config.epd op a).length) : exec i s = .next (complete s) := by
  obtain ⟨n, o, he⟩ := exec_host hi s
  simp [he, hostOperation, hr, h]

end Sys2Proof.Machine
end

