-- ==== Sys2Proof/Tests/Slice0.lean ====
section
/-! SUPPORT. Tests with the expected values of spec/95_test_vectors.md (its labels E, T, W, A, X, S) or hand-worked from the
tables of R51 and R56, and for every obligation with hypotheses a concrete input that meets them. -/

namespace Sys2Proof.Tests

open Sys2Proof Sys2Proof.Machine Sys2Proof.Claims

/-! ### Helpers -/

/-- After reset, with every answer of the environment `ok` and the line idle. -/
def base : State :=
  { State.reset with
    pinAnswers := List.replicate 16 .ok, sendAnswers := List.replicate 14 .ok, busyLevels := [.low] }

/-- `base` in a session state. -/
def inState (x : SessionState) : State := { base with session := x }

/-- `base` inside an operation. -/
def inside (op : Byte) (x : SessionState) (pc : Nat) : State :=
  { base with running := true, op := op, session := x, pc := pc }

/-- A configuration with a select level and a wait bound; its other open parameters are zero. -/
def cfg (dc : Level) (timeout : Option Nat) : Config where
  width := 128
  height := 250
  resetLowMs := 200
  resetHighMs := 200
  backoffMs := 50
  dcCmdLevel := dc
  busyTimeoutMs := timeout
  params :=
    { scanFlags := 0, booster := Vector.replicate 3 0, vcom := 0, dummyLine := 0, gateTime := 0, entryMode := 0,
      lutFull := Vector.replicate 30 0, lutPartial := Vector.replicate 30 0, lutSel := .full }

/-- The next state of an outcome, if it is one. -/
def nextOf : Outcome → Option State
  | .next t => some t
  | .fault _ => none
  | .refused _ => none

/-- What a step answers to a request word: `none` when it is accepted, the response word when it is refused. -/
def answer (s : State) (req : Req) : Option (BitVec 8) :=
  match step { s with reqs := [some req] } with
  | .next t => if t.running then none else some (rsp t.result.cls t.result.code)
  | .fault _ => some 0xFF
  | .refused _ => some 0xFF

/-- The trace, `PC`, RUNNING and response word after a sub-step of an INIT in Resetting. -/
def after (c : Config) (sub : SubStep) (s : State) : List Event × Nat × Bool × BitVec 8 :=
  let t := runSubStep c sub s
  (t.trace, t.pc, t.running, rsp t.result.cls t.result.code)

/-- An operation in a wait, and the environment's busy levels. -/
def waiting (levels : List Level) : State := { inside opDisplay .refreshing 5 with busyLevels := levels }

/-- Reads, delays, WAITCNT and RUNNING after `n` iterations of a wait. -/
def waitRun (c : Config) (n : Nat) (levels : List Level) : Nat × Nat × Nat × Bool :=
  let t := (List.range n).foldl (fun s _ => waitStep c s) (waiting levels)
  (t.trace.countP (fun e => match e with | .busyRead _ => true | _ => false),
    t.trace.countP (fun e => match e with | .delay _ => true | _ => false), t.waitCnt, t.running)

/-! ### Well-formedness: what the check refuses -/

theorem test_wf_unaligned_x_start : (Instr.setXWindow 3 8).wellFormed = false := by decide
theorem test_wf_wide_x_start : (Instr.setXWindow 2048 8).wellFormed = false := by decide
theorem test_wf_unaligned_x_end : (Instr.setXWindow 0 127).wellFormed = false := by decide
theorem test_wf_wide_x_end : (Instr.setXWindow 0 0xFFF8).wellFormed = false := by decide
theorem test_wf_unaligned_x_counter : (Instr.setXCounter 63).wellFormed = false := by decide
theorem test_wf_wide_x_counter : (Instr.setXCounter 2048).wellFormed = false := by decide
theorem test_wf_empty_payload : (Instr.writeRam []).wellFormed = false := by decide

/-! ### Decoding: words written out from R51 and R56 -/

theorem test_decode_init : decodeTableWord 72 0x000000000000000000 = some (.init ⟨0, 0, 0, 0⟩) := by decide
theorem test_decode_clear : decodeTableWord 72 0x01AB3C000000000000 = some (.clear ⟨0xAB3C, 0, 0, 0⟩) := by decide
theorem test_decode_display : decodeTableWord 72 0x020000000000000001 = some (.display ⟨0, 0, 0, 1⟩) := by decide
theorem test_decode_setarea : decodeTableWord 72 0x030008000A00470063 = some (.setarea ⟨8, 10, 71, 99⟩) := by decide
theorem test_decode_setptr : decodeTableWord 72 0x04004000C800000000 = some (.setptr ⟨64, 200, 0, 0⟩) := by decide
theorem test_decode_reserved : ([0x05, 0x06, 0x0F, 0x7F, 0x80, 0xFF] : List Byte).all fun op =>
    decodeHost op ⟨0, 0, 0, 0⟩ = .error .reservedOpcode := by decide
theorem test_decode_driver_output : decodeWire 0x01 [0xF9, 0x00, 0x00] = .ok .driverOutputControl := by decide
theorem test_decode_booster : decodeWire 0x0C [0xD7, 0xD6, 0x9D] = .ok .boosterSoftStart := by decide
theorem test_decode_vcom : decodeWire 0x2C [0xA8] = .ok .writeVcom := by decide
theorem test_decode_dummy_line : decodeWire 0x3A [0x1A] = .ok .setDummyLine := by decide
theorem test_decode_gate_time : decodeWire 0x3B [0x08] = .ok .setGateTime := by decide
theorem test_decode_entry_mode : decodeWire 0x11 [0x03] = .ok .dataEntryMode := by decide
theorem test_decode_lut : decodeWire 0x32 (List.replicate 30 0x55) = .ok .writeLut := by decide
theorem test_decode_x_window : decodeWire 0x44 [0x01, 0x08] = .ok (.setXWindow 8 64) := by decide
theorem test_decode_y_window : decodeWire 0x45 [0x02, 0x01, 0x04, 0x03] = .ok (.setYWindow 0x0102 0x0304) := by decide
theorem test_decode_x_counter : decodeWire 0x4E [0x0F] = .ok (.setXCounter 120) := by decide
theorem test_decode_y_counter : decodeWire 0x4F [0x00, 0x01] = .ok (.setYCounter 256) := by decide
theorem test_decode_write_ram : decodeWire 0x24 [0xA5, 0x5A] = .ok (.writeRam [0xA5, 0x5A]) := by decide
theorem test_decode_update_control : decodeWire 0x22 [0xC4] = .ok .displayUpdateControl2 := by decide
theorem test_decode_activation : decodeWire 0x20 [] = .ok .masterActivation := by decide
theorem test_decode_terminate : decodeWire 0xFF [] = .ok .terminateFrameRw := by decide
theorem test_decode_unknown_command : decodeWire 0x10 [0x01] = .error .unknownCommand := by decide
theorem test_decode_wrong_length : decodeWire 0x20 [0x00] = .error .dataLength := by decide
theorem test_decode_data_first : decodeFrames [⟨.data, [0x00]⟩] = .error .dataFrameFirst := by decide
theorem test_decode_frames : decodeFrames [⟨.command, [0x44]⟩, ⟨.data, [0x00, 0x0F]⟩, ⟨.command, [0x20]⟩] =
    .ok (.setXWindow 0 120, [⟨.command, [0x20]⟩]) := by decide

/-! ### Encoding: vectors E1 to E36 -/

theorem test_encode_driver_output_E2 :
    codeDriverOutputControl { cfg .low none with height := 300 } = ⟨0x01, [0x2B, 0x01, 0x00]⟩ := by decide
theorem test_encode_driver_output_E6 :
    codeDriverOutputControl { cfg .low none with height := 65535 } = ⟨0x01, [0xFE, 0xFF, 0x00]⟩ := by decide
theorem test_encode_x_window_E16 : codeSetXWindow 7 8 = ⟨0x44, [0x00, 0x01]⟩ := by decide
theorem test_encode_x_window_E19 : codeSetXWindow 0 2048 = ⟨0x44, [0x00, 0x00]⟩ := by decide
theorem test_encode_x_window_E20 : codeSetXWindow 0xFFFF 0xFFFF = ⟨0x44, [0xFF, 0xFF]⟩ := by decide
theorem test_encode_y_window_E22 : codeSetYWindow 0x0102 0x0304 = ⟨0x45, [0x02, 0x01, 0x04, 0x03]⟩ := by decide
theorem test_encode_x_counter_E26 : codeSetXCounter 63 = ⟨0x4E, [0x07]⟩ := by decide
theorem test_encode_y_counter_E29 : codeSetYCounter 249 = ⟨0x4F, [0xF9, 0x00]⟩ := by decide
theorem test_encode_fill_E33 : codeWriteRam (fillRow (cfg .low none) 0xA5) = ⟨0x24, List.replicate 16 0xA5⟩ := by decide
theorem test_encode_update_control_E34 : codeDisplayUpdateControl2.frames = [⟨.command, [0x22]⟩, ⟨.data, [0xC4]⟩] := by
  decide
theorem test_encode_activation_E35 : codeMasterActivation.frames = [⟨.command, [0x20]⟩] := by decide
theorem test_encode_terminate_E36 : codeTerminateFrameRw.frames = [⟨.command, [0xFF]⟩] := by decide
theorem test_pixels : pixelPlace 10 = (1, 5) ∧ pixelPlace 0 = (0, 7) ∧ pixelPlace 127 = (15, 0) := by decide

/-! ### Assembler (R61) -/

theorem test_assemble_P5 :
    assemble "SETAREA 8, 10, 71, 99\nSETPTR 8, 0x0A".toList = some [0x030008000A00470063, 0x040008000A00000000] := by
  decide
theorem test_assemble_clear : assemble "CLEAR\nCLEAR 0x00\nINIT\nDISPLAY".toList =
    some [0x0100FF000000000000, 0x010000000000000000, 0, 0x020000000000000000] := by decide
theorem test_assemble_out_of_range : assemble "CLEAR 256".toList = none := by decide

/-! ### Sub-steps: vectors T1 to T10 -/

theorem test_command_T1 : after (cfg .low none) (.cmd .masterActivation 0x24) (inside opInit .configuring 7) =
    ([.pinWrite .dc .low, .send [0x24]], 8, true, 0x00) := by decide
theorem test_command_T2 : after (cfg .high none) (.cmd .masterActivation 0x24) (inside opInit .configuring 7) =
    ([.pinWrite .dc .high, .send [0x24]], 8, true, 0x00) := by decide
theorem test_data_T3 : after (cfg .low none) (.data .masterActivation [0xC4]) (inside opInit .configuring 8) =
    ([.pinWrite .dc .high, .send [0xC4]], 9, true, 0x00) := by decide
theorem test_data_T4 : after (cfg .high none) (.data .masterActivation [0xC4]) (inside opInit .configuring 8) =
    ([.pinWrite .dc .low, .send [0xC4]], 9, true, 0x00) := by decide
theorem test_select_fault_T5 :
    after (cfg .low none) (.cmd .masterActivation 0x20) { inside opDisplay .refreshing 3 with pinAnswers := [.fault] } =
      ([.pinWriteFault .dc .low, .response .ioError .gpio], 3, false, 0x22) := by decide
theorem test_send_fault_T6 :
    let t := runSubStep (cfg .low none) (.cmd .masterActivation 0x20)
      { inside opDisplay .refreshing 3 with sendAnswers := [.fault] }
    (t.pc, t.running, rsp t.result.cls t.result.code, t.lineCs, t.session) =
      (3, false, 0x21, .inactive, .refreshing) := by decide
theorem test_reset_line_T8 : (runSubStep (cfg .low none) (.rst .low) (inside opInit .resetting 1)).lineRst = .low := by decide
theorem test_reset_line_T9 :
    after (cfg .low none) (.rst .low) { inside opInit .resetting 1 with pinAnswers := [.fault] } =
      ([.pinWriteFault .rst .low, .response .initError .gpio], 1, false, 0x12) := by decide
theorem test_hold_T10 : after (cfg .low none) (.hold 200) (inside opInit .resetting 2) = ([.delay 200], 3, true, 0x00) := by
  decide

/-! ### Busy wait: vectors W1 to W10 -/

theorem test_wait_W2 : waitRun (cfg .low (some 5000)) 2 [.high, .low] = (2, 1, 0, true) := by decide
theorem test_wait_W6 : waitRun (cfg .low (some 0)) 1 [.high] = (1, 0, 0, false) := by decide
theorem test_wait_W8 : waitRun (cfg .low (some 120)) 4 (List.replicate 4 .high) = (4, 3, 3, false) := by decide
theorem test_wait_W10 : waitRun (cfg .low (some 100)) 3 [.high, .high, .low] = (3, 2, 0, true) := by decide

/-! ### Requests: vectors A1 to A15 and the legality matrix -/

theorem test_setarea_A1 : answer (inState .idle) 0x0300000000007F00F9 = none := by decide
theorem test_setarea_A2 : answer (inState .idle) 0x0300000000008000F9 = some 0x35 := by decide
theorem test_setarea_A3 : answer (inState .idle) 0x0300000000007F00FA = some 0x35 := by decide
theorem test_setarea_A4 : answer (inState .idle) 0x03001000000008000A = some 0x35 := by decide
theorem test_setarea_A5 : answer (inState .idle) 0x03000000140008000A = some 0x35 := by decide
theorem test_setptr_A8 : answer (inState .idle) 0x04007F00F900000000 = none := by decide
theorem test_setptr_A9 : answer (inState .idle) 0x040080000000000000 = some 0x35 := by decide
theorem test_setptr_A10 : answer (inState .idle) 0x04000000FA00000000 = some 0x35 := by decide
theorem test_setptr_A11 : answer (inState .idle) 0x0400000000BEEFCAFE = none := by decide
theorem test_clear_A12 : fillValue (reqOperands 0x01AB3C000000000000) = 0x3C := by decide
theorem test_reserved_A13_A14 :
    answer (inState .idle) 0xFF0000000000000000 = some 0x36 ∧ answer base 0x050000000000000000 = some 0x36 := by decide
theorem test_state_first_A15 : answer base 0x0300000000008000F9 = some 0x34 := by decide
theorem test_legality_init :
    ([.uninitialized, .resetting, .configuring, .idle, .writingFrame, .refreshing] : List SessionState).all
      fun x => answer (inState x) 0x000000000000000000 = none := by decide
theorem test_legality_others :
    ([.uninitialized, .resetting, .configuring, .writingFrame, .refreshing] : List SessionState).all fun x =>
      answer (inState x) 0x010000000000000000 = some 0x34 ∧ answer (inState x) 0x020000000000000000 = some 0x34 ∧
        answer (inState x) 0x040000000000000000 = some 0x34 := by decide

/-! ### The status the host reads (R22), and reset -/

theorem test_status_after_reset : State.reset.status.session = 0 ∧ State.reset.status.valid = false ∧
    State.reset.status.reqReady = true ∧ State.reset.needsInit = true := by decide
theorem test_status_idle : (inState .idle).status.session = 3 ∧ (inState .idle).needsInit = false := by decide

/-! ### Steps: every row of the opcode table runs as the first instruction after reset -/

theorem test_fetch_rows : ([0x01, 0x0C, 0x2C, 0x3A, 0x3B, 0x11, 0x32, 0x44, 0x45, 0x4E, 0x4F, 0x24, 0x22, 0x20, 0xFF] : List Nat).all
    fun w => (nextOf (step (State.reset.withFetchWord 8 w))).isSome := by decide
theorem test_fetch_requests : ([0x000000000000000000, 0x010000000000000000, 0x020000000000000000, 0x030000000000000000,
    0x040000000000000000] : List Nat).all fun w => (nextOf (step (State.reset.withFetchWord 72 w))).isSome := by decide
theorem test_fetch_init :
    step (State.reset.withFetchWord 72 0) = exec (.init ⟨0, 0, 0, 0⟩) State.reset := rfl
theorem test_fetch_lut : step (State.reset.withFetchWord 8 0x32) = exec .writeLut (State.reset.withFetchWord 8 0x32) := rfl
theorem test_fetch_write_ram : step (State.reset.withFetchWord 8 0x24) =
    exec (.writeRam (List.replicate 16 0)) (State.reset.withFetchWord 8 0x24) := rfl
theorem test_fetch_y_window : step (State.reset.withFetchWord 8 0x45) =
    exec (.setYWindow 0 0) (State.reset.withFetchWord 8 0x45) := rfl

/-! ### The opcode table's rows do not overlap -/

theorem test_rows_disjoint :
    ([.init ⟨0, 0, 0, 0⟩, .clear ⟨0, 0, 0, 0⟩, .display ⟨0, 0, 0, 0⟩, .setarea ⟨0, 0, 0, 0⟩, .setptr ⟨0, 0, 0, 0⟩,
      .driverOutputControl, .boosterSoftStart, .writeVcom, .setDummyLine, .setGateTime, .dataEntryMode, .writeLut,
      .setXWindow 0 0, .setYWindow 0 0, .setXCounter 0, .setYCounter 0, .writeRam [], .displayUpdateControl2,
      .masterActivation, .terminateFrameRw] : List Instr).Pairwise
      fun i j => i.row.width ≠ j.row.width ∨ i.row.pattern ≠ j.row.pattern := by decide

/-! ### For every obligation with hypotheses, an input that meets them -/

theorem witness_EncodedOperationsDecodeBack :
    (Instr.setXWindow 0 2040).wellFormed = true ∧ (Instr.writeRam [0xFF]).wellFormed = true := by decide

theorem witness_RequestWordDeterminesItsOperation :
    decodeRequest 0x04007F00F9BEEFCAFE = .ok (.setptr ⟨127, 249, 0xBEEF, 0xCAFE⟩) := by decide

theorem witness_WireFramesDecodeBack :
    (Instr.setYCounter 256).wellFormed = true ∧ encode (.setYCounter 256) = .wire ⟨0x4F, [0x00, 0x01]⟩ ∧
      ∀ bytes more, [⟨.command, [0x20]⟩] ≠ (⟨.data, bytes⟩ :: more : List Frame) := by
  refine ⟨rfl, by decide, ?_⟩
  intro bytes more h
  cases h

theorem witness_OperandBytesMeetTheIntegerLaws : Config.epd.Valid := by decide

theorem witness_PixelsLieMostSignificantBitFirst : Config.epd.Valid ∧ (127 : U16).toNat < Config.epd.width.toNat := by decide

theorem witness_StepRunsTheDecodedOperation :
    NoReset base ∧ NoReset { base with resetIn := [.released] } ∧
    ((inside opInit .configuring 7).running = true ∧
      currentInstr Config.epd (inside opInit .configuring 7) = some .driverOutputControl) ∧
    ((inside opInit .configuring 23).running = true ∧
      currentInstr Config.epd (inside opInit .configuring 23) = some (.init ⟨0, 0, 0, 0⟩)) ∧
    (base.running = false ∧ decodeRequest 0 = .ok (.init ⟨0, 0, 0, 0⟩)) ∧
    decodeRequest 0x050000000000000000 = .error .reservedOpcode :=
  ⟨.inl rfl, .inr ⟨[], rfl⟩, ⟨rfl, rfl⟩, ⟨rfl, rfl⟩, ⟨rfl, by decide⟩, by decide⟩

theorem witness_StepIsOneStepOfTheLatchedOperation :
    NoReset (inside opDisplay .refreshing 5) ∧ (inside opDisplay .refreshing 5).running = true ∧
      decodeHost opDisplay ⟨0, 0, 0, 0⟩ = .ok (.display ⟨0, 0, 0, 0⟩) :=
  ⟨.inl rfl, rfl, by decide⟩

theorem witness_RunningBlockExecutesItsCurrentSubStep :
    NoReset (inside opInit .resetting 0) ∧ (inside opInit .resetting 0).running = true ∧
    currentSubStep Config.epd (inside opInit .idle 0) = some (.state .resetting) ∧
    currentSubStep Config.epd (inside opInit .resetting 1) = some (.rst .low) ∧
    currentSubStep Config.epd (inside opInit .resetting 4) = some (.hold 200) ∧
    currentSubStep Config.epd (inside opInit .idle 22) = some (.emit .ready) ∧
    currentSubStep Config.epd (inside opInit .configuring 9) = some (.cmd .boosterSoftStart 0x0C) ∧
    currentSubStep Config.epd (inside opDisplay .refreshing 2) = some (.data .displayUpdateControl2 [0xC4]) ∧
    currentSubStep Config.epd (inside opSetPtr .writingFrame 5) = some .wait :=
  ⟨.inl rfl, rfl, rfl, rfl, rfl, rfl, rfl, rfl, rfl⟩

theorem witness_OperationCompletesAtItsEnd :
    (inside opInit .idle 23).pc = (microProgram Config.epd 0x00 ⟨0, 0, 0, 0⟩).length ∧
    (inside opSetPtr .idle 7).pc = (microProgram Config.epd 0x04 ⟨0, 0, 0, 0⟩).length ∧
    (inside opSetPtr .idle 7).op.toNat ≤ 4 :=
  ⟨rfl, rfl, by decide⟩

theorem witness_RequestIsTakenByTheThreeChecks :
    let s : State := { inState .idle with reqs := [some 0x0300000000007F00F9] }
    NoReset s ∧ s.running = false ∧ s.reqs = some 0x0300000000007F00F9 :: [] :=
  ⟨.inl rfl, rfl, rfl⟩

theorem witness_RunningBlockTakesNoRequest :
    let s : State := { inside opInit .idle 0 with reqs := [some 0] }
    NoReset s ∧ s.running = true ∧ ∃ t, step s = .next t :=
  ⟨.inl rfl, rfl, _, rfl⟩

theorem witness_LatchesAreNotReadBeforeAcceptance :
    let s : State := { inState .idle with reqs := [some 0x010000000000000000] }
    s.running = false ∧ ∃ t, step s = .next t ∧ t.running = true :=
  ⟨rfl, _, rfl, rfl⟩

/-- At a Command frame the sequencer is not at a Data frame. -/
theorem not_atData {s : State} {i : Instr} {b : Byte} (h : currentSubStep Config.epd s = some (.cmd i b)) : ¬ AtData s := by
  rintro ⟨op, bytes, h'⟩
  rw [h] at h'
  cases h'

theorem witness_ConfigurationOperationsSendTheirFrames :
    (∀ pc ∈ ([7, 9, 11, 13, 15, 17, 19] : List Nat), ¬ AtData (inside opInit .configuring pc) ∧
      AtData (inside opInit .configuring (pc + 1))) ∧
    base.pinAnswers = .ok :: .ok :: List.replicate 14 .ok ∧ base.sendAnswers = .ok :: .ok :: List.replicate 12 .ok := by
  refine ⟨?_, rfl, rfl⟩
  intro pc h
  simp only [List.mem_cons, List.not_mem_nil, or_false] at h
  rcases h with rfl | rfl | rfl | rfl | rfl | rfl | rfl <;> exact ⟨not_atData rfl, _, _, rfl⟩

theorem witness_WindowOperationsSendTheirFrames :
    areaOk Config.epd ⟨127, 0, 127, 249⟩ = true ∧
    (¬ AtData (inside opSetArea .writingFrame 1) ∧ AtData (inside opSetArea .writingFrame 2)) ∧
    (¬ AtData (inside opSetArea .writingFrame 3) ∧ AtData (inside opSetArea .writingFrame 4)) :=
  ⟨by decide, ⟨not_atData rfl, _, _, rfl⟩, not_atData rfl, _, _, rfl⟩

theorem witness_CounterOperationsSendTheirFrames :
    (¬ AtData (inside opSetPtr .writingFrame 1) ∧ AtData (inside opSetPtr .writingFrame 2)) ∧
    (¬ AtData (inside opSetPtr .writingFrame 3) ∧ AtData (inside opSetPtr .writingFrame 4)) :=
  ⟨⟨not_atData rfl, _, _, rfl⟩, not_atData rfl, _, _, rfl⟩

theorem witness_WriteRamSendsItsPayloadWhole :
    ([0xA5] : List Byte) ≠ [] ∧ ¬ AtData (inside opClear .writingFrame 10) ∧ AtData (inside opClear .writingFrame 11) :=
  ⟨by decide, not_atData rfl, _, _, rfl⟩

theorem witness_RefreshOperationsSendTheirFrames :
    ¬ AtData (inside opDisplay .refreshing 1) ∧ AtData (inside opDisplay .refreshing 2) :=
  ⟨not_atData rfl, _, _, rfl⟩

theorem witness_WireOperationAbortsOnAFault :
    encode .masterActivation = .wire ⟨0x20, []⟩ ∧
    { base with sendAnswers := [.fault] }.pinAnswers = .ok :: List.replicate 15 .ok ∧
    { base with sendAnswers := [.fault] }.sendAnswers = .fault :: [] ∧
    { base with pinAnswers := [.fault] }.pinAnswers = .fault :: [] :=
  ⟨rfl, rfl, rfl, rfl⟩

theorem witness_WireOperationsLeaveTheRest :
    encode .terminateFrameRw = .wire ⟨0xFF, []⟩ ∧ ∃ t, exec .terminateFrameRw base = .next t := ⟨rfl, _, rfl⟩

theorem witness_HostOperationsLeaveTheRest :
    encode (.init ⟨0, 0, 0, 0⟩) = .request (packRequest opInit ⟨0, 0, 0, 0⟩) ∧
    (base.running = false ∧ ∃ t, exec (.init ⟨0, 0, 0, 0⟩) base = .next t) ∧
    (inside opInit .configuring 7).running = true ∧
      ∃ t, exec (.init ⟨0, 0, 0, 0⟩) (inside opInit .configuring 7) = .next t :=
  ⟨rfl, ⟨rfl, _, rfl⟩, rfl, _, rfl⟩

theorem witness_InitRunsToIdle :
    base.running = false ∧ base.pinAnswers = List.replicate 16 .ok ++ [] ∧ base.sendAnswers = List.replicate 14 .ok ++ [] :=
  ⟨rfl, rfl, rfl⟩

theorem witness_ClearWritesEveryRow :
    ∃ s : State, s.running = false ∧ s.session = .idle ∧ s.pinAnswers = List.replicate 1504 .ok ++ [] ∧
      s.sendAnswers = List.replicate 1504 .ok ++ [] ∧ s.busyLevels = List.replicate 250 .low ++ [] :=
  ⟨{ inState .idle with
      pinAnswers := List.replicate 1504 .ok ++ [], sendAnswers := List.replicate 1504 .ok ++ []
      busyLevels := List.replicate 250 .low ++ [] }, rfl, rfl, rfl, rfl, rfl⟩

theorem witness_DisplayRefreshesAndWaits :
    (inState .idle).running = false ∧ (inState .idle).session = .idle ∧
    (inState .idle).pinAnswers = List.replicate 4 .ok ++ List.replicate 12 .ok ∧
    (inState .idle).sendAnswers = List.replicate 4 .ok ++ List.replicate 10 .ok ∧
    { inState .idle with busyLevels := List.replicate 100 Level.high ++ [Level.low] }.busyLevels =
      List.replicate 100 .high ++ .low :: [] ∧ 100 ≤ 100 :=
  ⟨rfl, rfl, rfl, rfl, rfl, Nat.le_refl _⟩

theorem witness_SetAreaSendsTheWindow :
    (inState .idle).running = false ∧ (127 : U16).toNat ≤ (127 : U16).toNat ∧ (127 : U16).toNat ≤ 127 ∧
    (249 : U16).toNat ≤ (249 : U16).toNat ∧ (249 : U16).toNat ≤ 249 ∧
    (inState .idle).pinAnswers = List.replicate 4 .ok ++ List.replicate 12 .ok ∧
    (inState .idle).sendAnswers = List.replicate 4 .ok ++ List.replicate 10 .ok :=
  ⟨rfl, by decide, by decide, by decide, by decide, rfl, rfl⟩

theorem witness_SetPtrSendsThePointerAndWaits :
    (inState .idle).running = false ∧ (127 : U16).toNat ≤ 127 ∧ (249 : U16).toNat ≤ 249 ∧
    { inState .idle with busyLevels := List.replicate 100 Level.high ++ [Level.low] }.busyLevels =
      List.replicate 100 .high ++ .low :: [] ∧ 100 ≤ 100 :=
  ⟨rfl, by decide, by decide, rfl, Nat.le_refl _⟩

theorem witness_ResetLineIsDrivenOrAborts :
    NoReset (inside opInit .resetting 1) ∧ (inside opInit .resetting 1).running = true ∧
    currentSubStep Config.epd (inside opInit .resetting 1) = some (.rst .low) ∧
    currentSubStep Config.epd (inside opInit .resetting 3) = some (.rst .high) ∧
    (inside opInit .resetting 1).pinAnswers = .ok :: List.replicate 15 .ok ∧
    { inside opInit .resetting 1 with pinAnswers := [.fault] }.pinAnswers = .fault :: [] :=
  ⟨.inl rfl, rfl, rfl, rfl, rfl, rfl⟩

theorem witness_WaitReturnsAtOnceWhenIdle :
    NoReset (waiting [.low]) ∧ (waiting [.low]).running = true ∧
      currentSubStep Config.epd (waiting [.low]) = some .wait ∧ (waiting [.low]).busyLevels = .low :: [] :=
  ⟨.inl rfl, rfl, rfl, rfl⟩

theorem witness_BusyWaitBacksOffOrTimesOut :
    NoReset (waiting [.high]) ∧ (waiting [.high]).running = true ∧
      currentSubStep Config.epd (waiting [.high]) = some .wait ∧ (waiting [.high]).busyLevels = .high :: [] ∧
      { waiting [.high] with waitCnt := 99 }.waitCnt * 50 < 5000 ∧ 5000 ≤ { waiting [.high] with waitCnt := 100 }.waitCnt * 50 :=
  ⟨.inl rfl, rfl, rfl, rfl, by decide, by decide⟩

theorem witness_BoundedWaitTimesOutAfterItsReads :
    (cfg .low (some 120)).busyTimeoutMs = some 120 ∧ 0 < (cfg .low (some 120)).backoffMs ∧
    3 = (120 + (cfg .low (some 120)).backoffMs - 1) / (cfg .low (some 120)).backoffMs ∧ (waiting []).waitCnt = 0 ∧
    (waiting [.high, .high, .high, .low]).busyLevels = List.replicate 3 .high ++ .low :: [] ∧
    (waiting [.high, .high, .high, .high]).busyLevels = List.replicate (3 + 1) .high ++ [] := by decide

theorem witness_UnboundedWaitGoesOn :
    (cfg .low none).busyTimeoutMs = none ∧
      (waiting [.high, .high]).busyLevels = List.replicate 2 .high ++ [] := by decide

theorem witness_AbortChangesOnlyRunningAndResult :
    let s : State := { inside opInit .resetting 1 with pinAnswers := [.fault] }
    NoReset s ∧ s.running = true ∧ currentSubStep Config.epd s = some (.rst .low) ∧
      ∃ t, step s = .next t ∧ t.running = false :=
  ⟨.inl rfl, rfl, rfl, _, rfl, rfl⟩

/-- One input for each cause: a send of DISPLAY, a reset-line write of INIT, a wait of DISPLAY at its bound. -/
theorem witness_EachCauseHasItsSubStep :
    let s : State := { inside opDisplay .refreshing 3 with sendAnswers := [.fault] }
    let u : State := { inside opInit .resetting 1 with pinAnswers := [.fault] }
    let v : State := { waiting [.high] with waitCnt := 100 }
    (NoReset s ∧ s.running = true ∧ currentSubStep Config.epd s = some (.cmd .masterActivation 0x20) ∧
      ∃ t, step s = .next t ∧ t.running = false ∧ t.result = ⟨true, .ioError, .bus⟩) ∧
    (NoReset u ∧ u.running = true ∧ currentSubStep Config.epd u = some (.rst .low) ∧
      ∃ t, step u = .next t ∧ t.running = false ∧ t.result = ⟨true, .initError, .gpio⟩) ∧
    NoReset v ∧ v.running = true ∧ currentSubStep Config.epd v = some .wait ∧
      ∃ t, step v = .next t ∧ t.running = false ∧ t.result = ⟨true, .ioError, .timeout⟩ :=
  ⟨⟨.inl rfl, rfl, rfl, _, rfl, rfl, rfl⟩, ⟨.inl rfl, rfl, rfl, _, rfl, rfl, rfl⟩, .inl rfl, rfl, rfl, _, rfl, rfl, rfl⟩

/-- A DISPLAY at its second command meets the invariant. -/
theorem inv_display : ({ inside opDisplay .refreshing 3 with sendAnswers := [.fault] } : State).Inv where
  chipSelect := rfl
  busyInput := rfl
  opcode := fun _ => by decide
  operands := fun _ => rfl
  position := fun _ => by decide
  entered := fun _ h => by cases h
  session := fun _ x h => by
    have h' : some SessionState.refreshing = some x := h
    exact Option.some.inj h'
  waiting := fun _ h => absurd rfl h
  bounded := fun t _ => by
    show 0 * 50 < t + 50
    omega
  aborted := fun h => by cases h

theorem witness_AbortedOperationLeavesItsBusyState :
    let s : State := { inside opDisplay .refreshing 3 with sendAnswers := [.fault] }
    s.Inv ∧ NoReset s ∧ s.running = true ∧ ∃ t, step s = .next t ∧ t.running = false ∧ t.result.cls ≠ .ok :=
  ⟨inv_display, .inl rfl, rfl, _, rfl, rfl, by decide⟩

theorem witness_BusFaultOnFrameThreeStopsInitialisation :
    let s : State := { base with reqs := [some 0], sendAnswers := [.ok, .ok, .fault] }
    s.running = false ∧ s.resetIn = [] ∧ s.reqs = [some 0] ∧ (0 : Req).extractLsb' 64 8 = (0x00 : Byte) ∧
      s.pinAnswers = List.replicate 5 .ok ++ List.replicate 11 .ok ∧ s.sendAnswers = .ok :: .ok :: .fault :: [] :=
  ⟨rfl, rfl, rfl, by decide, rfl, rfl⟩

theorem witness_ClearProgramWritesRowByRow :
    Config.epd.Valid ∧ 0 < Config.epd.height.toNat ∧ 249 < Config.epd.height.toNat := by decide

theorem witness_OnlyTheFifteenCommandsAreSent :
    .cmd .terminateFrameRw 0xFF ∈ microProgram Config.epd 0x02 ⟨0, 0, 0, 0⟩ :=
  List.mem_of_getElem? (i := 4) rfl

theorem witness_CommandIsFollowedByItsData :
    (microProgram Config.epd 0x02 ⟨0, 0, 0, 0⟩)[1]? = some (.cmd .displayUpdateControl2 0x22) ∧
      (microProgram Config.epd 0x02 ⟨0, 0, 0, 0⟩)[2]? = some (.data .displayUpdateControl2 [0xC4]) := ⟨rfl, rfl⟩

theorem witness_WaitFollowsPointerAndRefreshOnly :
    (microProgram Config.epd 0x04 ⟨0, 7, 0, 0⟩)[4]? = some (.data (.setYCounter 7) [0x07, 0x00]) ∧
    (microProgram Config.epd 0x02 ⟨0, 0, 0, 0⟩)[4]? = some (.cmd .terminateFrameRw 0xFF) ∧
    (microProgram Config.epd 0x02 ⟨0, 0, 0, 0⟩)[5]? = some .wait := ⟨rfl, rfl, rfl⟩

theorem witness_BlockResetStopsEverything :
    { base with resetIn := [.asserted] }.resetIn = .asserted :: [] ∧ ResetIn.asserted ≠ .released ∧
    { base with resetIn := [.duringSend 1] }.resetIn = .duringSend 1 :: [] ∧ ResetIn.duringSend 1 ≠ .released := by
  refine ⟨rfl, ?_, rfl, ?_⟩ <;> exact fun h => by cases h

theorem witness_StepKeepsTheInvariant :
    let s : State := { inside opDisplay .refreshing 3 with sendAnswers := [.fault] }
    s.Inv ∧ ∃ t, step s = .next t := ⟨inv_display, _, rfl⟩

theorem witness_InvariantStatesNeverStop :
    ({ inside opDisplay .refreshing 3 with sendAnswers := [.fault] } : State).Inv := inv_display

/-- A DISPLAY that has been accepted in Idle meets the invariant. -/
theorem inv_accepted : (inside opDisplay .idle 0).Inv where
  chipSelect := rfl
  busyInput := rfl
  opcode := fun _ => by decide
  operands := fun _ => rfl
  position := fun _ => by decide
  entered := fun _ _ => .inr rfl
  session := fun _ x h => by
    have h' : (none : Option SessionState) = some x := h
    cases h'
  waiting := fun _ h => absurd rfl h
  bounded := fun t _ => by
    show 0 * 50 < t + 50
    omega
  aborted := fun h => by cases h

theorem witness_SessionStateMovesAlongItsEdges :
    (inside opDisplay .idle 0).Inv ∧ NoReset (inside opDisplay .idle 0) ∧
      ∃ t, step (inside opDisplay .idle 0) = .next t ∧ t.session = .refreshing :=
  ⟨inv_accepted, .inl rfl, _, rfl, rfl⟩

theorem witness_ResponsesAreLegalWords :
    ∃ t, step (inside opInit .idle 23) = .next t ∧ t.trace = (inside opInit .idle 23).trace ++ [.response .ok .ok] :=
  ⟨_, rfl, rfl⟩

theorem witness_EventsComeOnlyFromInit :
    (∃ t, step (inside opInit .resetting 5) = .next t ∧ t.trace = [] ++ [.event .reset]) ∧
    ∃ t, step (inside opInit .idle 22) = .next t ∧ t.trace = [] ++ [.event .ready] :=
  ⟨⟨_, rfl, rfl⟩, _, rfl, rfl⟩

theorem witness_TraceOnlyGrows : ∃ t, step base = .next t := ⟨_, rfl⟩

/-- A DISPLAY that has timed out leaves a state that meets the invariant. -/
theorem inv_aborted :
    ({ inState .refreshing with result := ⟨true, .ioError, .timeout⟩, reqs := [some 0x010000000000000000] } : State).Inv where
  chipSelect := rfl
  busyInput := rfl
  opcode := fun h => by cases h
  operands := fun h => by cases h
  position := fun h => by cases h
  entered := fun h => by cases h
  session := fun h => by cases h
  waiting := fun h => by cases h
  bounded := fun t _ => by
    show 0 * 50 < t + 50
    omega
  aborted := fun _ _ h => by cases h

theorem witness_AfterAnAbortOnlyInitIsAccepted :
    let s : State :=
      { inState .refreshing with result := ⟨true, .ioError, .timeout⟩, reqs := [some 0x010000000000000000] }
    s.Inv ∧ NoReset s ∧ s.running = false ∧ s.result.cls = .ioError ∧ s.reqs = some 0x010000000000000000 :: [] ∧
      0 < ((0x010000000000000000 : Req).extractLsb' 64 8).toNat ∧
      ((0x040000000000000000 : Req).extractLsb' 64 8).toNat ≤ 4 ∧ (0 : Req).extractLsb' 64 8 = (0x00 : Byte) :=
  ⟨inv_aborted, .inl rfl, rfl, rfl, rfl, by decide, by decide, by decide⟩

theorem witness_SelectLineIsSetBeforeTheBytes :
    NoReset (inside opInit .configuring 7) ∧ ∃ t, step (inside opInit .configuring 7) = .next t ∧
      t.trace = [] ++ [.pinWrite .dc t.lineDc, .send [0x01]] :=
  ⟨.inl rfl, _, rfl, rfl⟩

theorem witness_FrameIsSentAtItsConfiguredLevel :
    base.pinAnswers = .ok :: List.replicate 15 .ok ∧ base.sendAnswers = .ok :: List.replicate 13 .ok ∧
    (cfg .low none).dcCmdLevel = .low ∧ (cfg .high none).dcCmdLevel = .high := ⟨rfl, rfl, rfl, rfl⟩

theorem witness_BlockOfAnyConfigurationRunsItsOperations :
    NoReset (inside opInit .configuring 7) ∧ (inside opInit .configuring 7).running = true ∧
    decodeHost opInit ⟨0, 0, 0, 0⟩ = .ok (.init ⟨0, 0, 0, 0⟩) ∧
    currentSubStep (cfg .high none) (inside opInit .configuring 7) = some (.cmd .driverOutputControl 0x01) ∧
    base.running = false ∧ decodeRequest 0 = .ok (.init ⟨0, 0, 0, 0⟩) :=
  ⟨.inl rfl, rfl, by decide, rfl, rfl, by decide⟩

/-- Three busy reads of an unbounded wait, and the state they lead to. -/
theorem witness_UnboundedWaitIsAHang :
    let c := cfg .low none
    let s := waiting (List.replicate 3 .high)
    c.busyTimeoutMs = none ∧ (∀ r ∈ s.resetIn, r = .released) ∧ s.running = true ∧ currentSubStep c s = some .wait ∧
    s.busyLevels = List.replicate 3 .high ++ [] ∧
    ∃ t, runOf c 3 s = .next t ∧ t.trace = s.trace ++ (List.replicate 3 [Event.busyRead .high, .delay 50]).flatten ∧
      .busyRead .low ∉ (List.replicate 3 [Event.busyRead .high, .delay 50]).flatten := by
  refine ⟨rfl, ?_, rfl, rfl, rfl, _, rfl, rfl, by decide⟩
  intro r h
  cases h

theorem witness_EveryConfigurationKeepsItsInvariant :
    0 < (cfg .high none).backoffMs ∧ ∃ s : State, s.InvOf Config.epd ∧ 0 < Config.epd.backoffMs :=
  ⟨by decide, _, inv_display, by decide⟩

end Sys2Proof.Tests
end

section
/-! The select line and the bytes (R55, R71, R200): what one step of a block of any configuration sends and does to `LINE.DC`, and
from it the obligation about the block configured by `Config.epd`. -/

namespace Sys2Proof.Proofs.SelectLine

open Sys2Proof Sys2Proof.Machine Sys2Proof.Claims

/-- From `s` to `t` nothing is sent and the select line stays. -/
def Quiet (s t : State) : Prop :=
  t.lineDc = s.lineDc ∧ ∃ es, t.trace = s.trace ++ es ∧ ∀ bytes, .send bytes ∉ es

theorem Quiet.of_eq {s t : State} (hl : t.lineDc = s.lineDc) (ht : t.trace = s.trace) : Quiet s t :=
  ⟨hl, [], by simp [ht], fun _ => List.not_mem_nil⟩

theorem Quiet.of_response {s t : State} {cls : RespClass} {code : RespCode} (hl : t.lineDc = s.lineDc)
    (ht : t.trace = s.trace ++ [.response cls code]) : Quiet s t :=
  ⟨hl, _, ht, by simp⟩

/-- The events of a quiet step are those its trace has gained, so none of them is a send. -/
theorem Quiet.not_send {s t : State} (h : Quiet s t) {es : List Event} (ht : t.trace = s.trace ++ es) (bytes : List Byte) :
    .send bytes ∉ es := by
  obtain ⟨-, es', ht', hn⟩ := h
  rw [List.append_cancel_left (ht.symm.trans ht')]
  exact hn bytes

/-- Bytes that SendFrame sends are the frame's payload; the select line was set to the mode's level just before, and has it
after. -/
theorem sendFrame_send {c : Config} {f : Frame} {s : State} {es : List Event} {bytes : List Byte}
    (ht : (sendFrame c f s).trace = s.trace ++ es) (hb : .send bytes ∈ es) :
    bytes = f.payload ∧ (sendFrame c f s).lineDc = selectLevel c f.mode ∧
      es = [.pinWrite .dc (selectLevel c f.mode), .send bytes] := by
  rcases sendFrame_cases c f s with ⟨ps, ss, d, h⟩ | ⟨l, ps, d, h⟩ | ⟨n, ps, ss, d, -, h⟩ <;>
    rw [h, List.append_cancel_left_eq] at ht <;> subst ht
  · -- sent
    obtain rfl : bytes = f.payload := by simpa using hb
    exact ⟨rfl, by rw [h], rfl⟩
  · -- the select line faulted
    simp at hb
  · -- the send faulted
    simp at hb

/-- A sub-step that is no frame is quiet. -/
theorem runSubStep_quiet (c : Config) {sub : SubStep} (hf : sub.isFrame = false) (s : State) :
    Quiet s (runSubStep c sub s) := by
  cases sub with
  | cmd op b => cases hf
  | data op bytes => cases hf
  | state x => exact .of_eq rfl rfl
  | hold ms => exact ⟨rfl, [.delay ms], rfl, by simp⟩
  | emit e => exact ⟨rfl, [.event e], rfl, by simp⟩
  | rst l =>
    rcases rstStep_cases l s with ⟨ps, d, h⟩ | ⟨l', ps, d, h⟩ <;> rw [runSubStep, h] <;>
      exact ⟨rfl, _, rfl, by simp⟩
  | wait =>
    rcases waitStep_cases c s with ⟨bs, d, h⟩ | ⟨bs, d, -, h⟩ | ⟨bs, d, -, h⟩ <;> rw [runSubStep, h] <;>
      exact ⟨rfl, _, rfl, by simp⟩

/-- Bytes that a sub-step sends are its own, at the level of its mode. -/
theorem runSubStep_send {c : Config} {sub : SubStep} {s t : State} {es : List Event} {bytes : List Byte}
    (hr : runSubStep c sub s = t) (ht : t.trace = s.trace ++ es) (hb : .send bytes ∈ es) :
    es = [.pinWrite .dc t.lineDc, .send bytes] ∧
      ((∃ op b, sub = .cmd op b ∧ bytes = [b] ∧ t.lineDc = c.dcCmdLevel) ∨
        ∃ op, sub = .data op bytes ∧ t.lineDc = c.dcCmdLevel.other) := by
  subst hr
  cases hf : sub.isFrame with
  | false => exact absurd hb ((runSubStep_quiet c hf s).not_send ht bytes)
  | true =>
    cases sub with
    | cmd op b =>
      obtain ⟨hp, hl, he⟩ := sendFrame_send (f := ⟨.command, [b]⟩) ht hb
      exact ⟨by rw [he, runSubStep, hl], .inl ⟨op, b, rfl, hp, hl⟩⟩
    | data op payload =>
      obtain ⟨rfl, hl, he⟩ := sendFrame_send (f := ⟨.data, payload⟩) ht hb
      exact ⟨by rw [he, runSubStep, hl], .inr ⟨op, rfl, hl⟩⟩
    | state x => cases hf
    | rst l => cases hf
    | hold ms => cases hf
    | wait => cases hf
    | emit e => cases hf

/-- Without block reset, a step runs the sub-step that is due, or it is quiet. -/
theorem stepOf_subStep_or_quiet {c : Config} {s t : State} (hn : NoReset s) (h : stepOf c s = .next t) :
    (s.running = true ∧ ∃ sub, currentSubStep c s = some sub ∧
      t = runSubStep c sub { s with resetIn := s.resetIn.tail }) ∨ Quiet s t := by
  rcases stepOf_cases h with ⟨r, rest, hl, hreset⟩ | ⟨-, hrun | ⟨-, -, -, rfl⟩ | ⟨-, req, rest, -, htake⟩ | ⟨-, rfl⟩⟩
  · -- block reset is excluded
    rcases hn with hnil | ⟨rest', hrel⟩
    · rw [hl] at hnil
      cases hnil
    · rw [hl, List.cons.injEq] at hrel
      obtain ⟨rfl, -⟩ := hrel
      rcases hreset with ⟨h, -⟩ | ⟨d, h, -⟩ <;> cases h
  · exact .inl hrun
  · -- completion
    exact .inr (.of_response rfl rfl)
  · -- a request is taken
    rcases htake with ⟨code, rfl⟩ | ⟨-, -, -, -, rfl⟩
    · exact .inr (.of_response rfl rfl)
    · exact .inr (.of_eq rfl rfl)
  · -- nothing is presented
    exact .inr (.of_eq rfl rfl)

/-- Settles O53: a step that is not quiet runs the sub-step that is due, which sends only its own bytes, at its mode's level. -/
theorem selectLineIsSetBeforeTheBytes : Obligations.SelectLineIsSetBeforeTheBytes := by
  intro s t es hn h ht
  rcases stepOf_subStep_or_quiet hn (step_eq s ▸ h) with ⟨hr, sub, hc, rfl⟩ | hq
  · rw [hc]
    refine ⟨fun bytes hb => ?_, fun hl => ⟨hr, sub, rfl, ?_⟩⟩
    · simpa using runSubStep_send rfl ht hb
    · by_contra hf
      exact hl (runSubStep_quiet _ (by simpa using hf) _).1
  · exact ⟨fun bytes hb => absurd hb (hq.not_send ht bytes), fun hl => absurd hq.1 hl⟩

end Sys2Proof.Proofs.SelectLine
end

section
/-! The busy wait (R90, R91, R94): a wait that reads idle ends at once, and without a bound a wait that never does is a hang. -/

namespace Sys2Proof.Proofs.BusyWait

open Sys2Proof Sys2Proof.Machine Sys2Proof.Claims

/-- Without block reset, a step of a running block runs the sub-step that is due. -/
theorem stepOf_subStep {c : Config} {s : State} {sub : SubStep} (hn : NoReset s) (hr : s.running = true)
    (h : currentSubStep c s = some sub) :
    stepOf c s = .next (runSubStep c sub { s with resetIn := s.resetIn.tail }) := by
  rw [stepOf_noReset hn]
  exact sequencerStep_subStep hr h

/-- Settles O30: the step is one iteration of the wait, which ends at its first read. -/
theorem waitReturnsAtOnceWhenIdle : Obligations.WaitReturnsAtOnceWhenIdle := by
  intro s bs hn hr h hl
  have hl' : (afterResetInput s).busyLevels = .low :: bs := hl
  calc step s = .next (waitStep Config.epd (afterResetInput s)) := stepOf_subStep hn hr h
    _ = _ := by rw [waitStep_idle hl']; rfl

/-! ### The trace of a run only grows (R9) -/

theorem stepOf_trace {c : Config} {s t : State} (h : stepOf c s = .next t) : ∃ es, t.trace = s.trace ++ es := by
  rcases stepOf_cases h with ⟨r, rest, -, ⟨-, rfl⟩ | ⟨d, -, rfl⟩⟩ |
    ⟨-, ⟨-, sub, -, rfl⟩ | ⟨-, -, -, rfl⟩ | ⟨-, req, rest, -, htake⟩ | ⟨-, rfl⟩⟩
  · -- block reset between two sub-steps
    exact ⟨[], by simp [blockReset]⟩
  · -- block reset during a send
    obtain ⟨es, ht, -⟩ := cutFrame_trace c d { s with resetIn := rest }
    exact ⟨es, ht⟩
  · exact runSubStep_trace c sub _
  · -- completion
    exact ⟨_, rfl⟩
  · -- a request is taken
    rcases htake with ⟨code, rfl⟩ | ⟨-, -, -, -, rfl⟩
    · exact ⟨_, rfl⟩
    · exact ⟨[], by simp [accept]⟩
  · -- nothing is presented
    exact ⟨[], by simp⟩

/-- A run of `k + 1` steps is a step and a run of `k`. -/
theorem runOf_succ_next {c : Config} {k : Nat} {s t : State} (h : runOf c (k + 1) s = .next t) :
    ∃ u, stepOf c s = .next u ∧ runOf c k u = .next t := by
  cases hu : stepOf c s with
  | next u => exact ⟨u, rfl, by rw [← h, runOf, runOf, iterate_succ hu]⟩
  | fault r => simp [runOf, iterate, hu] at h
  | refused r => simp [runOf, iterate, hu] at h

theorem runOf_trace {c : Config} {k : Nat} {s t : State} (h : runOf c k s = .next t) :
    ∃ es, t.trace = s.trace ++ es := by
  induction k generalizing s with
  | zero =>
    obtain rfl : s = t := by simpa [runOf, iterate] using h
    exact ⟨[], by simp⟩
  | succ k ih =>
    obtain ⟨u, hu, hrun⟩ := runOf_succ_next h
    obtain ⟨es, hes⟩ := stepOf_trace hu
    obtain ⟨es', hes'⟩ := ih hrun
    exact ⟨es ++ es', by rw [hes', hes, List.append_assoc]⟩

/-! ### The unbounded wait (R94) -/

/-- `s` after `k` iterations of the busy wait that read busy and backed off, with the busy levels `bs` still listed and `d` free
values drawn. -/
def backedOff (c : Config) (k : Nat) (bs : List Level) (d : Nat) (s : State) : State :=
  { s with
    resetIn := s.resetIn.drop k, waitCnt := s.waitCnt + k, busyLevels := bs, draws := d
    trace := s.trace ++ (List.replicate k [Event.busyRead .high, .delay c.backoffMs]).flatten }

theorem backedOff_zero (c : Config) (s : State) : backedOff c 0 s.busyLevels s.draws s = s := by
  simp [backedOff]

theorem backedOff_backedOff_one (c : Config) (k : Nat) (bs bs' : List Level) (d d' : Nat) (s : State) :
    backedOff c k bs d (backedOff c 1 bs' d' s) = backedOff c (k + 1) bs d s := by
  simp [backedOff, List.replicate_succ, Nat.add_comm, Nat.add_left_comm]

/-- The block waits, without a bound, and block reset is not asserted. -/
structure Waiting (c : Config) (s : State) : Prop where
  unbounded : c.busyTimeoutMs = none
  noReset : ∀ r ∈ s.resetIn, r = .released
  running : s.running = true
  atWait : currentSubStep c s = some .wait

/-- Backing off leaves the block at the same wait. -/
theorem Waiting.after_backOff {c : Config} {s : State} (h : Waiting c s) (k : Nat) (bs : List Level) (d : Nat) :
    Waiting c (backedOff c k bs d s) where
  unbounded := h.unbounded
  noReset := fun r hr => h.noReset r (List.mem_of_mem_drop hr)
  running := h.running
  atWait := h.atWait

/-- A step of a waiting block is one iteration of the wait. -/
theorem Waiting.stepOf_eq {c : Config} {s : State} (h : Waiting c s) :
    stepOf c s = .next (waitStep c { s with resetIn := s.resetIn.tail }) := by
  have hn : NoReset s := by
    cases hl : s.resetIn with
    | nil => exact .inl hl
    | cons r rest =>
      obtain rfl := h.noReset r (by simp [hl])
      exact .inr ⟨rest, hl⟩
  exact stepOf_subStep hn h.running h.atWait

theorem Waiting.not_expired {c : Config} {s : State} (h : Waiting c s) (n : Nat) : waitExpired c n = false := by
  simp [waitExpired, h.unbounded]

/-- With a listed busy level, a waiting block backs off. -/
theorem Waiting.stepOf_busy {c : Config} {s : State} (h : Waiting c s) {bs : List Level} (hl : s.busyLevels = .high :: bs) :
    stepOf c s = .next (backedOff c 1 bs s.draws s) := by
  have hl' : ({ s with resetIn := s.resetIn.tail } : State).busyLevels = .high :: bs := hl
  rw [h.stepOf_eq, waitStep_backOff hl' (h.not_expired _)]
  simp [backedOff]

/-- A step of a waiting block reads idle, or backs off. -/
theorem Waiting.idle_or_backedOff {c : Config} {s u : State} (h : Waiting c s) (hu : stepOf c s = .next u) :
    u.trace = s.trace ++ [.busyRead .low] ∨ ∃ bs d, u = backedOff c 1 bs d s := by
  rw [h.stepOf_eq, Host.Outcome.next.injEq] at hu
  subst hu
  rcases waitStep_cases c { s with resetIn := s.resetIn.tail } with ⟨bs, d, hw⟩ | ⟨bs, d, -, hw⟩ | ⟨bs, d, hx, -⟩
  · exact .inl (by rw [hw])
  · exact .inr ⟨bs, d, by rw [hw]; simp [backedOff]⟩
  · rw [h.not_expired] at hx
    cases hx

/-- `k` listed busy levels take a waiting block through `k` iterations. -/
theorem Waiting.runOf_busy {c : Config} {k : Nat} {s : State} (h : Waiting c s) {bs : List Level}
    (hl : s.busyLevels = List.replicate k .high ++ bs) :
    runOf c k s = .next (backedOff c k bs s.draws s) := by
  induction k generalizing s with
  | zero =>
    obtain rfl : s.busyLevels = bs := hl
    rw [backedOff_zero]
    rfl
  | succ k ih =>
    have hcons : s.busyLevels = .high :: (List.replicate k .high ++ bs) := by rw [hl, List.replicate_succ, List.cons_append]
    rw [runOf, iterate_succ (h.stepOf_busy hcons), ← runOf, ih (h.after_backOff ..) rfl]
    exact congrArg _ (backedOff_backedOff_one ..)

/-- Whatever the environment answers, in `k` steps of a waiting block some read gives idle, or all of them back off. -/
theorem Waiting.idleRead_or_backedOff {c : Config} {k : Nat} {s t : State} (h : Waiting c s) (hrun : runOf c k s = .next t) :
    (∃ es, t.trace = s.trace ++ es ∧ .busyRead .low ∈ es) ∨ ∃ bs d, t = backedOff c k bs d s := by
  induction k generalizing s with
  | zero =>
    obtain rfl : s = t := by simpa [runOf, iterate] using hrun
    exact .inr ⟨_, _, (backedOff_zero c s).symm⟩
  | succ k ih =>
    obtain ⟨u, hu, hrest⟩ := runOf_succ_next hrun
    rcases h.idle_or_backedOff hu with hidle | ⟨bs', d', rfl⟩
    · obtain ⟨es, hes⟩ := runOf_trace hrest
      exact .inl ⟨.busyRead .low :: es, by simp [hes, hidle]⟩
    · rcases ih (h.after_backOff ..) hrest with ⟨es, hes, hmem⟩ | ⟨bs, d, rfl⟩
      · exact .inl ⟨[.busyRead .high, .delay c.backoffMs] ++ es, by simp [hes, backedOff], by simp [hmem]⟩
      · exact .inr ⟨bs, d, backedOff_backedOff_one ..⟩

/-- Settles O57: `k` iterations of the wait, by induction on `k`; a run in which no read gave 0 is such a run. -/
theorem unboundedWaitIsAHang : Obligations.UnboundedWaitIsAHang := by
  intro c k s hc hreset hr hw
  have h : Waiting c s := ⟨hc, hreset, hr, hw⟩
  refine ⟨fun bs hl => h.runOf_busy hl, fun t es hrun ht hno => ?_⟩
  rcases h.idleRead_or_backedOff hrun with ⟨es', ht', hmem⟩ | ⟨bs, d, rfl⟩
  · rw [List.append_cancel_left (ht.symm.trans ht')] at hno
    exact absurd hmem hno
  · exact ⟨hr, rfl, rfl, rfl, rfl, rfl, rfl, rfl, (List.append_cancel_left ht).symm⟩

end Sys2Proof.Proofs.BusyWait
end

section
/-! Where waits stand (R95): in every micro-program a `WAIT` follows each Y counter and each TERMINATE_FRAME_RW, and nothing
else. -/

namespace Sys2Proof.Proofs.WaitPlacement

open Sys2Proof Sys2Proof.Machine Sys2Proof.Claims

/-- A sub-step after which a `WAIT` is due: the Data frame of a Y counter, the Command frame of TERMINATE_FRAME_RW (R95). -/
def waitDue : SubStep → Bool
  | .data (.setYCounter _) _ => true
  | .cmd .terminateFrameRw _ => true
  | _ => false

theorem waitDue_iff (sub : SubStep) :
    waitDue sub = true ↔ (∃ y bytes, sub = .data (.setYCounter y) bytes) ∨ ∃ b, sub = .cmd .terminateFrameRw b := by
  unfold waitDue
  split <;> simp_all

/-- A `WAIT` stands first in the list exactly when `due` says so, then after each sub-step after which it is due and nowhere
else; none is due at the end. -/
def WaitsPlaced (due : Bool) : List SubStep → Prop
  | [] => due = false
  | sub :: rest => (sub = .wait ↔ due = true) ∧ WaitsPlaced (waitDue sub) rest

/-! ### What the placement says of positions -/

theorem WaitsPlaced.wait_at_zero_iff {due : Bool} {l : List SubStep} (h : WaitsPlaced due l) :
    l[0]? = some .wait ↔ due = true := by
  cases l with
  | nil => simp [show due = false from h]
  | cons sub rest => simpa using h.1

theorem WaitsPlaced.wait_at_succ_iff {due : Bool} {l : List SubStep} (h : WaitsPlaced due l) (k : Nat) :
    l[k + 1]? = some .wait ↔ ∃ sub, l[k]? = some sub ∧ waitDue sub = true := by
  induction l generalizing due k with
  | nil => simp
  | cons sub rest ih =>
    obtain ⟨-, hrest⟩ := h
    cases k with
    | zero => simpa using hrest.wait_at_zero_iff
    | succ k => simpa using ih hrest k

/-! ### How placements compose -/

theorem WaitsPlaced.append {due : Bool} {l m : List SubStep} (hl : WaitsPlaced due l) (hm : WaitsPlaced false m) :
    WaitsPlaced due (l ++ m) := by
  induction l generalizing due with
  | nil =>
    obtain rfl : due = false := hl
    exact hm
  | cons sub rest ih => exact ⟨hl.1, ih hl.2⟩

/-- A sub-step that is no `WAIT` and after which none is due. -/
def Unwaited (sub : SubStep) : Prop := sub ≠ .wait ∧ waitDue sub = false

theorem WaitsPlaced.of_unwaited {l : List SubStep} (h : ∀ sub ∈ l, Unwaited sub) : WaitsPlaced false l := by
  induction l with
  | nil => rfl
  | cons sub rest ih =>
    obtain ⟨⟨hne, hdue⟩, hrest⟩ := List.forall_mem_cons.mp h
    exact ⟨by simp [hne], hdue ▸ ih hrest⟩

/-! ### The parts of the micro-programs -/

/-- The wire operations that a `WAIT` follows: the Y counter and TERMINATE_FRAME_RW. -/
def awaited : Instr → Bool
  | .setYCounter _ => true
  | .terminateFrameRw => true
  | _ => false

theorem wireSubSteps_unwaited {i : Instr} (hi : awaited i = false) (w : WireCode) :
    ∀ sub ∈ wireSubSteps i w, Unwaited sub := by
  have hcmd : Unwaited (.cmd i w.cmd) := by
    refine ⟨nofun, Bool.eq_false_iff.mpr fun h => ?_⟩
    obtain ⟨_, _, ⟨⟩⟩ | ⟨_, ⟨⟩⟩ := (waitDue_iff _).mp h
    cases hi
  have hdata (bytes : List Byte) : Unwaited (.data i bytes) := by
    refine ⟨nofun, Bool.eq_false_iff.mpr fun h => ?_⟩
    obtain ⟨_, _, ⟨⟩⟩ | ⟨_, ⟨⟩⟩ := (waitDue_iff _).mp h
    cases hi
  unfold wireSubSteps
  split <;> simp [hcmd, hdata]

theorem setWindow_unwaited (x0 y0 x1 y1 : U16) : ∀ sub ∈ setWindow x0 y0 x1 y1, Unwaited sub :=
  List.forall_mem_append.mpr ⟨wireSubSteps_unwaited rfl _, wireSubSteps_unwaited rfl _⟩

theorem configSequence_unwaited (c : Config) : ∀ sub ∈ configSequence c, Unwaited sub := by
  simp only [configSequence, List.forall_mem_append]
  exact ⟨⟨⟨⟨⟨⟨wireSubSteps_unwaited rfl _, wireSubSteps_unwaited rfl _⟩, wireSubSteps_unwaited rfl _⟩,
    wireSubSteps_unwaited rfl _⟩, wireSubSteps_unwaited rfl _⟩, wireSubSteps_unwaited rfl _⟩,
    wireSubSteps_unwaited rfl _⟩

theorem state_placed (x : SessionState) : WaitsPlaced false [.state x] := by
  simp [WaitsPlaced, waitDue]

/-- A pointer set and the `WAIT` after it (R95). -/
theorem setPointer_wait_placed (x y : U16) : WaitsPlaced false (setPointer x y ++ [.wait]) := by
  simp [setPointer, wireSubSteps, codeSetXCounter, codeSetYCounter, splitU16, WaitsPlaced, waitDue]

theorem clearRows_placed (c : Config) (v : Byte) (row n : Nat) : WaitsPlaced false (clearRows c v row n) := by
  induction n generalizing row with
  | zero => rfl
  | succ n ih =>
    exact ((setPointer_wait_placed _ _).append (.of_unwaited (wireSubSteps_unwaited rfl _))).append (ih (row + 1))

/-! ### The micro-programs -/

theorem initProgram_unwaited (c : Config) : ∀ sub ∈ initProgram c, Unwaited sub := by
  simp only [initProgram, List.forall_mem_append]
  refine ⟨⟨⟨⟨?_, ?_⟩, ?_⟩, configSequence_unwaited c⟩, ?_⟩ <;> simp [resetPulse, Unwaited, waitDue]

theorem setAreaProgram_unwaited (a : Operands) : ∀ sub ∈ setAreaProgram a, Unwaited sub := by
  simp only [setAreaProgram, List.forall_mem_append]
  refine ⟨⟨?_, setWindow_unwaited _ _ _ _⟩, ?_⟩ <;> simp [Unwaited, waitDue]

theorem clearProgram_placed (c : Config) (a : Operands) : WaitsPlaced false (clearProgram c a) :=
  (((state_placed _).append (.of_unwaited (setWindow_unwaited _ _ _ _))).append (clearRows_placed ..)).append
    (state_placed _)

theorem displayProgram_placed : WaitsPlaced false displayProgram := by
  simp [displayProgram, wireSubSteps, codeDisplayUpdateControl2, codeMasterActivation, codeTerminateFrameRw,
    WaitsPlaced, waitDue]

theorem setPtrProgram_placed (a : Operands) : WaitsPlaced false (setPtrProgram a) := by
  simpa [setPtrProgram] using
    ((state_placed .writingFrame).append (setPointer_wait_placed a.a0 a.a1)).append (state_placed .idle)

theorem microProgram_placed (c : Config) (op : Byte) (a : Operands) : WaitsPlaced false (microProgram c op a) := by
  unfold microProgram
  split_ifs
  · exact .of_unwaited (initProgram_unwaited c)
  · exact clearProgram_placed c a
  · exact displayProgram_placed
  · exact .of_unwaited (setAreaProgram_unwaited a)
  · exact setPtrProgram_placed a
  · rfl

/-- Settles O43: the placement holds of every micro-program, and says of each position whether a `WAIT` stands there. -/
theorem waitFollowsPointerAndRefreshOnly : Obligations.WaitFollowsPointerAndRefreshOnly := by
  intro c op a
  have h := microProgram_placed c op a
  refine ⟨fun k y bytes hk => (h.wait_at_succ_iff k).mpr ⟨_, hk, rfl⟩,
    fun k b hk => (h.wait_at_succ_iff k).mpr ⟨_, hk, rfl⟩, fun k hk => ?_, ?_⟩
  · cases k with
    | zero => exact absurd (h.wait_at_zero_iff.mp hk) Bool.false_ne_true
    | succ j =>
      obtain ⟨sub, hj, hdue⟩ := (h.wait_at_succ_iff j).mp hk
      rcases (waitDue_iff sub).mp hdue with ⟨y, bytes, rfl⟩ | ⟨b, rfl⟩
      · exact ⟨j, rfl, .inl ⟨y, bytes, hj⟩⟩
      · exact ⟨j, rfl, .inr ⟨b, hj⟩⟩
  · rintro (rfl | rfl) hw
    · exact (initProgram_unwaited c _ hw).1 rfl
    · exact (setAreaProgram_unwaited a _ hw).1 rfl

end Sys2Proof.Proofs.WaitPlacement
end

section
/-! What the wire operations with data bytes send (R100 to R111): a Command frame with the operation's byte, then its data bytes whole
in one Data frame. An operation's encoding says what its two frames hold. -/

namespace Sys2Proof.Proofs.WireFrames

open Sys2Proof Sys2Proof.Machine Sys2Proof.Claims

/-! ### The frame that is due, sent -/

/-- Away from a `DATA` sub-step, a wire operation's Command frame is due. -/
theorem frameDue_of_not_atData {s : State} (h : ¬ AtData s) (w : WireCode) :
    frameDue Config.epd w s = ⟨.command, [w.cmd]⟩ := by
  unfold frameDue
  split
  · next op bytes _ _ hsub _ => exact absurd ⟨op, bytes, hsub⟩ h
  · rfl

/-- With both answers `ok`, a step of a wire operation sends the frame that is due and changes nothing else. -/
theorem exec_sends_frameDue {i : Instr} {w : WireCode} (hi : encode i = .wire w) {s : State} {ps ss : List Answer}
    (hp : s.pinAnswers = .ok :: ps) (hs : s.sendAnswers = .ok :: ss) :
    exec i s = .next (frameSent (frameDue Config.epd w s) ps ss s) := by
  rw [exec_wire hi, sendFrame_sent hp hs]
  rfl

/-- A wire operation with data bytes sends its encoding: the command byte, then the data bytes. -/
theorem sendsCommandAndData_of_encode {i : Instr} {b : Byte} {bytes : List Byte} (hi : encode i = .wire ⟨b, bytes⟩)
    (hne : bytes ≠ []) : SendsCommandAndData i b bytes := by
  intro s ps ss hcmd hdata hp hs
  constructor
  · rw [exec_sends_frameDue hi hp hs, frameDue_of_not_atData hcmd]
  · obtain ⟨op, payload, hsub⟩ := hdata
    have hsub' : currentSubStep Config.epd (frameSent ⟨.command, [b]⟩ (.ok :: ps) (.ok :: ss) s) = some (.data op payload) :=
      hsub
    rw [exec_sends_frameDue hi rfl rfl, frameDue_data hsub' hne]

/-- Data bytes written as a list that is visibly not empty. -/
theorem sendsCommandAndData_of_encode_cons {i : Instr} {b x : Byte} {xs : List Byte}
    (hi : encode i = .wire ⟨b, x :: xs⟩) : SendsCommandAndData i b (x :: xs) :=
  sendsCommandAndData_of_encode hi (List.cons_ne_nil x xs)

/-! ### The configuration operations (R101 to R107) -/

/-- R107: WRITE_LUT's encoding carries the selected look-up table. -/
theorem encode_writeLut : encode .writeLut = .wire ⟨0x32, Config.epd.lut.toList⟩ := by
  rw [← codeWriteLut_data]
  rfl

theorem lut_toList_ne_nil (c : Config) : c.lut.toList ≠ [] :=
  List.ne_nil_of_length_eq_add_one (Vector.length_toList (xs := c.lut))

/-- R6: the selection is between the two tables. -/
theorem lut_eq_ite (c : Config) :
    c.lut = if c.params.lutSel = .full then c.params.lutFull else c.params.lutPartial := by
  unfold Config.lut
  split <;> simp [*]

/-- Settles O16: the encodings of the seven operations hold the bytes. -/
theorem configurationOperationsSendTheirFrames : Obligations.ConfigurationOperationsSendTheirFrames := by
  refine ⟨?driverOutputControl, ?boosterSoftStart, ?writeVcom, ?setDummyLine, ?setGateTime, ?dataEntryMode, ?writeLut,
    Vector.length_toList, lut_eq_ite _, fun _ => rfl⟩
  case writeLut => exact sendsCommandAndData_of_encode encode_writeLut (lut_toList_ne_nil _)
  all_goals exact sendsCommandAndData_of_encode_cons rfl

/-! ### The window and counter operations (R108 to R111) -/

/-- The operand check bounds both X operands by the last column of the display (R130). -/
theorem areaOk_columns_le {c : Config} {a : Operands} (h : areaOk c a = true) :
    a.a0.toNat ≤ (xMax c).toNat ∧ a.a2.toNat ≤ (xMax c).toNat := by
  simp only [areaOk, Bool.and_eq_true, decide_eq_true_eq, BitVec.le_def] at h
  obtain ⟨⟨⟨hstart, hend⟩, -⟩, -⟩ := h
  exact ⟨hstart.trans hend, hend⟩

/-- The last column of the display has a number that the byte of an X column carries (R36). -/
theorem xMax_epd_lt : (xMax Config.epd).toNat < 2048 := by decide

/-- Settles O17: the operand check bounds the X operands by the display's width, and the encodings hold the bytes. -/
theorem windowOperationsSendTheirFrames : Obligations.WindowOperationsSendTheirFrames := by
  refine ⟨fun a h => ?_, fun v w => ⟨?_, ?_⟩⟩
  · obtain ⟨hstart, hend⟩ := areaOk_columns_le h
    exact ⟨hstart.trans_lt xMax_epd_lt, hend.trans_lt xMax_epd_lt⟩
  · exact sendsCommandAndData_of_encode_cons rfl
  · exact sendsCommandAndData_of_encode_cons rfl

/-- Settles O18: the encodings of the two operations hold the bytes. -/
theorem counterOperationsSendTheirFrames : Obligations.CounterOperationsSendTheirFrames :=
  fun _ => ⟨sendsCommandAndData_of_encode_cons rfl, sendsCommandAndData_of_encode_cons rfl⟩

end Sys2Proof.Proofs.WireFrames
end

section
/-! Frames in pairs (R201): in every micro-program a Command frame whose operation has data bytes stands just before its Data
frame, and a Data frame just after its Command frame. -/

namespace Sys2Proof.Proofs.FramePairs

open Sys2Proof Sys2Proof.Machine Sys2Proof.Claims

/-- R201 for a list of sub-steps: each Command frame has its Data frame just after it, when its operation has data bytes, and each
Data frame has its Command frame just before it. -/
structure FramesPaired (c : Config) (l : List SubStep) : Prop where
  after_cmd : ∀ {k i b}, l[k]? = some (.cmd i b) → ∃ w, encodeWith c i = .wire w ∧ w.cmd = b ∧
    (w.data ≠ [] → l[k + 1]? = some (.data i w.data))
  before_data : ∀ {k i bytes}, l[k]? = some (.data i bytes) →
    ∃ j b w, k = j + 1 ∧ l[j]? = some (.cmd i b) ∧ encodeWith c i = .wire w ∧ w.cmd = b ∧ w.data = bytes

/-! ### How paired lists compose -/

/-- An element of a concatenation stands in the first list, or in the second. -/
theorem getElem?_append_eq_some_cases {l m : List SubStep} {k : Nat} {sub : SubStep} (h : (l ++ m)[k]? = some sub) :
    l[k]? = some sub ∨ ∃ n, k = l.length + n ∧ m[n]? = some sub := by
  rcases lt_or_ge k l.length with hk | hk
  · exact .inl (by rwa [List.getElem?_append_left hk] at h)
  · exact .inr ⟨k - l.length, by omega, by rwa [List.getElem?_append_right hk] at h⟩

theorem getElem?_append_of_left {l : List SubStep} (m : List SubStep) {k : Nat} {sub : SubStep} (h : l[k]? = some sub) :
    (l ++ m)[k]? = some sub := by
  obtain ⟨hk, -⟩ := List.getElem?_eq_some_iff.mp h
  rwa [List.getElem?_append_left hk]

theorem getElem?_length_add_append (l m : List SubStep) (n : Nat) : (l ++ m)[l.length + n]? = m[n]? := by
  rw [List.getElem?_append_right (Nat.le_add_right ..), Nat.add_sub_cancel_left]

theorem FramesPaired.append {c : Config} {l m : List SubStep} (hl : FramesPaired c l) (hm : FramesPaired c m) :
    FramesPaired c (l ++ m) where
  after_cmd h := by
    rcases getElem?_append_eq_some_cases h with h | ⟨n, rfl, hn⟩
    · obtain ⟨w, hw, hb, hnext⟩ := hl.after_cmd h
      exact ⟨w, hw, hb, fun hne => getElem?_append_of_left m (hnext hne)⟩
    · obtain ⟨w, hw, hb, hnext⟩ := hm.after_cmd hn
      exact ⟨w, hw, hb, fun hne => by rw [Nat.add_assoc, getElem?_length_add_append, hnext hne]⟩
  before_data h := by
    rcases getElem?_append_eq_some_cases h with h | ⟨n, rfl, hn⟩
    · obtain ⟨j, b, w, hk, hj, hw⟩ := hl.before_data h
      exact ⟨j, b, w, hk, getElem?_append_of_left m hj, hw⟩
    · obtain ⟨j, b, w, rfl, hj, hw⟩ := hm.before_data hn
      exact ⟨l.length + j, b, w, rfl, by rw [getElem?_length_add_append, hj], hw⟩

/-! ### The parts of the micro-programs -/

theorem framesPaired_of_noFrame (c : Config) {l : List SubStep} (h : ∀ sub ∈ l, sub.isFrame = false) : FramesPaired c l where
  after_cmd hk := by cases h _ (List.mem_of_getElem? hk)
  before_data hk := by cases h _ (List.mem_of_getElem? hk)

/-- The frames of one operation, with the bytes of its encoding (R100). -/
theorem wireSubSteps_paired {c : Config} {i : Instr} {w : WireCode} (hw : encodeWith c i = .wire w) :
    FramesPaired c (wireSubSteps i w) := by
  unfold wireSubSteps
  split
  · next hd =>
    constructor
    · rintro (_ | k) i' b ⟨⟩
      exact ⟨w, hw, rfl, fun hne => absurd hd hne⟩
    · rintro (_ | k) i' bytes ⟨⟩
  · next x xs hd =>
    constructor
    · rintro (_ | _ | k) i' b ⟨⟩
      exact ⟨w, hw, rfl, fun _ => by simp [hd]⟩
    · rintro (_ | _ | k) i' bytes ⟨⟩
      exact ⟨0, w.cmd, w, rfl, rfl, hw, rfl, hd⟩

theorem setWindow_paired (c : Config) (x0 y0 x1 y1 : U16) : FramesPaired c (setWindow x0 y0 x1 y1) :=
  (wireSubSteps_paired rfl).append (wireSubSteps_paired rfl)

theorem setPointer_paired (c : Config) (x y : U16) : FramesPaired c (setPointer x y) :=
  (wireSubSteps_paired rfl).append (wireSubSteps_paired rfl)

theorem memWrite_paired (c : Config) (col : Byte) (row : U16) (bytes : List Byte) :
    FramesPaired c (memWrite col row bytes) :=
  ((setPointer_paired ..).append (framesPaired_of_noFrame c (by simp [SubStep.isFrame]))).append (wireSubSteps_paired rfl)

theorem clearRows_paired (c : Config) (v : Byte) (row n : Nat) : FramesPaired c (clearRows c v row n) := by
  induction n generalizing row with
  | zero => exact framesPaired_of_noFrame c (by simp [clearRows])
  | succ n ih => exact (memWrite_paired ..).append (ih (row + 1))

theorem configSequence_paired (c : Config) : FramesPaired c (configSequence c) :=
  ((((((wireSubSteps_paired rfl).append (wireSubSteps_paired rfl)).append (wireSubSteps_paired rfl)).append
    (wireSubSteps_paired rfl)).append (wireSubSteps_paired rfl)).append (wireSubSteps_paired rfl)).append
    (wireSubSteps_paired rfl)

/-! ### The micro-programs -/

theorem initProgram_paired (c : Config) : FramesPaired c (initProgram c) := by
  refine ((framesPaired_of_noFrame c ?_).append (configSequence_paired c)).append (framesPaired_of_noFrame c ?_) <;>
    simp [resetPulse, SubStep.isFrame]

theorem clearProgram_paired (c : Config) (a : Operands) : FramesPaired c (clearProgram c a) := by
  refine (((framesPaired_of_noFrame c ?_).append (setWindow_paired ..)).append (clearRows_paired ..)).append
    (framesPaired_of_noFrame c ?_) <;> simp [SubStep.isFrame]

theorem displayProgram_paired (c : Config) : FramesPaired c displayProgram := by
  refine ((((framesPaired_of_noFrame c ?_).append (wireSubSteps_paired rfl)).append (wireSubSteps_paired rfl)).append
    (wireSubSteps_paired rfl)).append (framesPaired_of_noFrame c ?_) <;> simp [SubStep.isFrame]

theorem setAreaProgram_paired (c : Config) (a : Operands) : FramesPaired c (setAreaProgram a) := by
  refine ((framesPaired_of_noFrame c ?_).append (setWindow_paired ..)).append (framesPaired_of_noFrame c ?_) <;>
    simp [SubStep.isFrame]

theorem setPtrProgram_paired (c : Config) (a : Operands) : FramesPaired c (setPtrProgram a) := by
  refine ((framesPaired_of_noFrame c ?_).append (setPointer_paired ..)).append (framesPaired_of_noFrame c ?_) <;>
    simp [SubStep.isFrame]

theorem microProgram_paired (c : Config) (op : Byte) (a : Operands) : FramesPaired c (microProgram c op a) := by
  unfold microProgram
  split_ifs
  · exact initProgram_paired c
  · exact clearProgram_paired c a
  · exact displayProgram_paired c
  · exact setAreaProgram_paired c a
  · exact setPtrProgram_paired c a
  · exact framesPaired_of_noFrame c (by simp)

/-- Settles O42: a micro-program is a concatenation of operations' frames and of sub-steps that are no frames, and pairing is kept
by concatenation. -/
theorem commandIsFollowedByItsData : Obligations.CommandIsFollowedByItsData := by
  intro c op a k
  have h := microProgram_paired c op a
  exact ⟨fun _ _ => h.after_cmd, fun _ _ => h.before_data⟩

end Sys2Proof.Proofs.FramePairs
end

section
/-! The two encodings (R50 to R61): decoding undoes encoding, for request words, wire codes and frames; and the words that
tables and assembler lines give. -/

namespace Sys2Proof.Proofs.Encoding

open Sys2Proof Sys2Proof.Machine

/-! ### Request words as numbers (R50) -/

theorem toNat_append_eq_add {n m : Nat} (x : BitVec n) (y : BitVec m) :
    (x ++ y).toNat = x.toNat * 2 ^ m + y.toNat := by
  rw [BitVec.toNat_append, ← Nat.shiftLeft_add_eq_or_of_lt y.isLt, Nat.shiftLeft_eq]

theorem packRequest_toNat (op : Byte) (a : Operands) :
    (packRequest op a).toNat =
      op.toNat * 2 ^ 64 + a.a0.toNat * 2 ^ 48 + a.a1.toNat * 2 ^ 32 + a.a2.toNat * 2 ^ 16 + a.a3.toNat := by
  rw [packRequest, toNat_append_eq_add, toNat_append_eq_add, toNat_append_eq_add, toNat_append_eq_add]
  omega

theorem reqOpcode_packRequest (op : Byte) (a : Operands) : reqOpcode (packRequest op a) = op := by
  apply BitVec.eq_of_toNat_eq
  rw [reqOpcode, BitVec.extractLsb'_toNat, packRequest_toNat, Nat.shiftRight_eq_div_pow]
  omega

theorem reqOperands_packRequest (op : Byte) (a : Operands) : reqOperands (packRequest op a) = a := by
  obtain ⟨a0, a1, a2, a3⟩ := a
  simp only [reqOperands, Operands.mk.injEq]
  refine ⟨?_, ?_, ?_, ?_⟩ <;> apply BitVec.eq_of_toNat_eq <;>
    rw [BitVec.extractLsb'_toNat, packRequest_toNat, Nat.shiftRight_eq_div_pow] <;> dsimp only <;> omega

/-- The opcode and the operand fields hold all 72 bits. -/
theorem packRequest_fields (req : Req) : packRequest (reqOpcode req) (reqOperands req) = req := by
  apply BitVec.eq_of_toNat_eq
  simp only [packRequest_toNat, reqOpcode, reqOperands, BitVec.extractLsb'_toNat, Nat.shiftRight_eq_div_pow]
  omega

theorem decodeRequest_packRequest (op : Byte) (a : Operands) : decodeRequest (packRequest op a) = decodeHost op a := by
  rw [decodeRequest, reqOpcode_packRequest, reqOperands_packRequest]

/-- A decoded host operation encodes to its opcode and operand fields. -/
theorem encode_of_decodeHost {op : Byte} {a : Operands} {i : Instr} (h : decodeHost op a = .ok i) :
    encode i = .request (packRequest op a) := by
  rcases decodeHost_cases h with ⟨rfl, rfl⟩ | ⟨rfl, rfl⟩ | ⟨rfl, rfl⟩ | ⟨rfl, rfl⟩ | ⟨rfl, rfl⟩ <;> rfl

/-- Settles O2: the opcode and the operand fields, packed again, are the word. -/
theorem requestWordDeterminesItsOperation : Obligations.RequestWordDeterminesItsOperation := by
  intro req i h
  rw [encode_of_decodeHost h, packRequest_fields]

/-! ### Decoding undoes encoding -/

/-- An X coordinate that is carried is the leftmost pixel of its byte column (R36, R57). -/
theorem columnPixel_byteColumn {x : U16} (h : xCarried x = true) : columnPixel (byteColumn x) = x := by
  simp only [xCarried, Bool.and_eq_true, beq_iff_eq, decide_eq_true_eq] at h
  obtain ⟨haligned, hlt⟩ := h
  have hmod : x.toNat % 8 = 0 := by
    have h7 := congrArg BitVec.toNat haligned
    rwa [BitVec.toNat_and, show (7 : U16).toNat = 2 ^ 3 - 1 from rfl, Nat.and_two_pow_sub_one_eq_mod] at h7
  apply BitVec.eq_of_toNat_eq
  rw [columnPixel_toNat, byteColumn_toNat]
  omega

/-- Under every configuration a well-formed operation's encoding decodes to it: coordinates by the inverse laws of their byte
forms, constant data bytes by their number. -/
theorem decode_encodeWith (c : Config) {i : Instr} (h : i.wellFormed = true) : decode (encodeWith c i) = .ok i := by
  cases i with
  | init a => exact decodeRequest_packRequest opInit a
  | clear a => exact decodeRequest_packRequest opClear a
  | display a => exact decodeRequest_packRequest opDisplay a
  | setarea a => exact decodeRequest_packRequest opSetArea a
  | setptr a => exact decodeRequest_packRequest opSetPtr a
  | setXWindow xStart xEnd =>
    obtain ⟨hstart, hend⟩ := Bool.and_eq_true_iff.mp h
    show Decoded.ok (Instr.setXWindow (columnPixel (byteColumn xStart)) (columnPixel (byteColumn xEnd))) = _
    rw [columnPixel_byteColumn hstart, columnPixel_byteColumn hend]
  | setYWindow yStart yEnd =>
    show Decoded.ok (Instr.setYWindow (joinU16 (lo yStart) (hi yStart)) (joinU16 (lo yEnd) (hi yEnd))) = _
    rw [joinU16_split, joinU16_split]
  | setXCounter x =>
    show Decoded.ok (Instr.setXCounter (columnPixel (byteColumn x))) = _
    rw [columnPixel_byteColumn h]
  | setYCounter y =>
    show Decoded.ok (Instr.setYCounter (joinU16 (lo y) (hi y))) = _
    rw [joinU16_split]
  | writeRam payload =>
    cases payload with
    | nil => cases h
    | cons b bs => rfl
  | _ => rfl

/-- Settles O1: `decode_encodeWith` for `Config.epd`. -/
theorem encodedOperationsDecodeBack : Obligations.EncodedOperationsDecodeBack :=
  fun _ h => decode_encodeWith Config.epd h

/-- A wire code's frames, before frames that do not begin with a Data frame, decode as the wire code does (R53, R54). -/
theorem decodeFrames_frames_append (w : WireCode) {rest : List Frame}
    (hrest : ∀ bytes more, rest ≠ ⟨.data, bytes⟩ :: more) :
    decodeFrames (w.frames ++ rest) = (decodeWire w.cmd w.data).withRest rest := by
  obtain ⟨cmd, data⟩ := w
  cases data with
  | cons b bs => rfl
  | nil =>
    match rest, hrest with
    | [], _ => rfl
    | ⟨.command, _⟩ :: _, _ => rfl
    | ⟨.data, bytes⟩ :: more, h => exact absurd rfl (h bytes more)

/-- Settles O3: the frames decode as the wire code, and that decodes to the operation. -/
theorem wireFramesDecodeBack : Obligations.WireFramesDecodeBack := by
  intro i w rest hwf hw hrest
  have hi : decodeWire w.cmd w.data = .ok i := by
    rw [← encodedOperationsDecodeBack i hwf, hw]
    rfl
  rw [decodeFrames_frames_append w hrest, hi]
  rfl

/-! ### Words written out (R51, R56, R61) -/

/-- Settles O4: the decoders run on each word. -/
theorem specWordsDecode : Obligations.SpecWordsDecode := by
  unfold Obligations.SpecWordsDecode
  decide

theorem clear_word (v : Byte) : (AsmLine.clear (some v)).word = 0x01#8 ++ 0#8 ++ v ++ 0#48 := by
  show packRequest opClear ⟨v.setWidth 16, 0, 0, 0⟩ = _
  apply BitVec.eq_of_toNat_eq
  rw [packRequest_toNat, toNat_append_eq_add, toNat_append_eq_add, toNat_append_eq_add]
  simp [opClear]
  omega

theorem setptr_word (x y : U16) : (AsmLine.setptr x y).word = 0x04#8 ++ x ++ y ++ 0#32 := by
  show packRequest opSetPtr ⟨x, y, 0, 0⟩ = _
  apply BitVec.eq_of_toNat_eq
  rw [packRequest_toNat, toNat_append_eq_add, toNat_append_eq_add, toNat_append_eq_add]
  simp [opSetPtr]
  omega

/-- Settles O5: a line's word is its opcode above its operand fields. -/
theorem assemblerLinesGiveTheirWords : Obligations.AssemblerLinesGiveTheirWords :=
  ⟨by decide, by decide, clear_word, rfl, rfl, fun _ _ _ _ => rfl, setptr_word⟩

end Sys2Proof.Proofs.Encoding
end

section
/-! The operand forms as integers (R5, R33, R34, R116). -/

namespace Sys2Proof.Proofs.OperandForms

open Sys2Proof Sys2Proof.Machine

/-- R33, R116: the two bytes of a u16 and the byte column, as integers. -/
theorem u16_integer_laws (v : U16) :
    v.toNat = (lo v).toNat + 256 * (hi v).toNat ∧ (byteColumn v).toNat = v.toNat / 8 % 256 ∧
      ((byteColumn v).toNat = v.toNat / 8 ↔ v.toNat ≤ 2047) := by
  rw [lo_toNat, hi_toNat, byteColumn_toNat]
  omega

/-- R5: the derived constants of a valid geometry do not wrap. -/
theorem derived_constants {c : Config} (h : c.Valid) :
    (xMax c).toNat = c.width.toNat - 1 ∧ (yMax c).toNat = c.height.toNat - 1 ∧ 8 * rowBytes c = c.width.toNat := by
  obtain ⟨hmin, -, haligned, hheight⟩ := h
  have hw := c.width.isLt
  have hh := c.height.isLt
  have hone : (1 : U16).toNat = 1 := rfl
  rw [xMax, yMax, rowBytes, BitVec.toNat_sub, BitVec.toNat_sub, hone]
  omega

/-- Settles O6: the integer laws of the byte forms, and the constants of a geometry without wrapping. -/
theorem operandBytesMeetTheIntegerLaws : Obligations.OperandBytesMeetTheIntegerLaws := by
  refine ⟨fun v => ?_, fun c hc => ?_⟩
  · obtain ⟨hsplit, hcolumn, hexact⟩ := u16_integer_laws v
    exact ⟨hsplit, rfl, joinU16_split v, hcolumn, hexact⟩
  · obtain ⟨hx, hy, hrow⟩ := derived_constants hc
    exact ⟨hx, hy, hrow, fun v => List.length_replicate⟩

/-- R34: byte and bit of a pixel. -/
theorem pixelPlace_eq (x : U16) : pixelPlace x = (x.toNat / 8, 7 - x.toNat % 8) := by
  have hbyte : (x >>> 3).toNat = x.toNat / 8 := by
    rw [BitVec.toNat_ushiftRight, Nat.shiftRight_eq_div_pow]
  have hbit : (x &&& 7).toNat = x.toNat % 8 := by
    rw [BitVec.toNat_and]
    exact Nat.and_two_pow_sub_one_eq_mod x.toNat 3
  rw [pixelPlace, hbyte, hbit]

/-- Settles O8: a pixel left of the width is in a byte left of the row's end. -/
theorem pixelsLieMostSignificantBitFirst : Obligations.PixelsLieMostSignificantBitFirst := by
  intro c x hc hx
  obtain ⟨-, -, hrow⟩ := derived_constants hc
  rw [pixelPlace_eq]
  exact ⟨rfl, by omega, by omega⟩

end Sys2Proof.Proofs.OperandForms
end

section
/-! The sequencer (R130, R131, R138, R190): what the meaning of a host operation is, once for all five opcodes, and from it what a
step does while an operation runs and when a request is taken. -/

namespace Sys2Proof.Proofs.Sequencer

open Sys2Proof Sys2Proof.Machine Sys2Proof.Claims
open Sys2Proof.Proofs.BusyWait (stepOf_subStep)

/-! ### Host opcodes (R51, R58) -/

/-- Exactly the five opcodes up to 4 decode. -/
theorem decodeHost_ok_iff (op : Byte) (a : Operands) : (∃ i, decodeHost op a = .ok i) ↔ op.toNat ≤ 4 := by
  constructor
  · rintro ⟨i, h⟩
    rcases decodeHost_cases h with ⟨rfl, -⟩ | ⟨rfl, -⟩ | ⟨rfl, -⟩ | ⟨rfl, -⟩ | ⟨rfl, -⟩ <;> decide
  · intro h
    have hop : op = BitVec.ofNat 8 op.toNat := by simp
    generalize op.toNat = n at h hop
    subst hop
    interval_cases n <;> exact ⟨_, rfl⟩

theorem decodeHost_error_of_lt {op : Byte} (a : Operands) (h : 4 < op.toNat) : ∃ e, decodeHost op a = .error e := by
  cases hd : decodeHost op a with
  | ok i => exact absurd ((decodeHost_ok_iff op a).mp ⟨i, hd⟩) (by omega)
  | error e => exact ⟨e, rfl⟩

/-- The meaning of a host operation: legal in Idle alone but for INIT, with the operand check and the micro-program
of its opcode. -/
theorem execOf_decoded {op : Byte} {a : Operands} {i : Instr} (h : decodeHost op a = .ok i) (c : Config) (s : State) :
    execOf c i s = hostOperation c op a (decide (op ≠ opInit)) (operandsOk c op a) (microProgram c op a) s := by
  rcases decodeHost_cases h with ⟨rfl, rfl⟩ | ⟨rfl, rfl⟩ | ⟨rfl, rfl⟩ | ⟨rfl, rfl⟩ | ⟨rfl, rfl⟩ <;> rfl

/-- A host operation, as its request word encodes it, is the decoded operation of some opcode. -/
theorem decodeHost_of_encode {i : Instr} {req : Req} (h : encode i = .request req) : ∃ op a, decodeHost op a = .ok i := by
  cases i with
  | init a => exact ⟨opInit, a, rfl⟩
  | clear a => exact ⟨opClear, a, rfl⟩
  | display a => exact ⟨opDisplay, a, rfl⟩
  | setarea a => exact ⟨opSetArea, a, rfl⟩
  | setptr a => exact ⟨opSetPtr, a, rfl⟩
  | _ => cases h

/-! ### A running block -/

/-- Without block reset the step is the sequencer's, the block-reset input having moved on. -/
theorem stepOf_sequencer {c : Config} {s : State} (hn : NoReset s) :
    stepOf c s = sequencerStep c (afterResetInput s) :=
  stepOf_noReset hn

/-- Without block reset, a step of a running block is one step of the meaning of the latched host operation: at a frame both it
and the wire operation's meaning are the sub-step, and elsewhere it is the step by definition. -/
theorem stepOf_latched {c : Config} {s : State} {i : Instr} (hn : NoReset s) (hr : s.running = true)
    (hi : decodeHost s.op s.a = .ok i) : stepOf c s = execOf c i (afterResetInput s) := by
  have hr' : (afterResetInput s).running = true := hr
  cases hsub : currentSubStep c s with
  | some sub =>
    have hsub' : (microProgram c s.op s.a)[(afterResetInput s).pc]? = some sub := hsub
    rw [stepOf_subStep hn hr hsub, execOf_decoded hi, hostOperation, if_pos hr', hsub']
    rfl
  | none =>
    have hcur : currentInstr c (afterResetInput s) = some i := by
      have hsub' : currentSubStep c (afterResetInput s) = none := hsub
      have hi' : decodeHost (afterResetInput s).op (afterResetInput s).a = .ok i := hi
      simp [currentInstr, hsub', hi', Decoded.toOption]
    rw [stepOf_sequencer hn]
    simp [sequencerStep, hr', hcur]

/-- Settles O10: `stepOf_latched` for `Config.epd`. -/
theorem stepIsOneStepOfTheLatchedOperation : Obligations.StepIsOneStepOfTheLatchedOperation := by
  intro s i hn hr hi
  rw [step_eq, stepOf_latched hn hr hi, exec_eq]

/-- Settles O11: each kind of sub-step has its effect by definition. -/
theorem runningBlockExecutesItsCurrentSubStep : Obligations.RunningBlockExecutesItsCurrentSubStep := by
  intro s sub hn hr hsub
  rw [step_eq, stepOf_subStep hn hr hsub]
  cases sub <;> rfl

/-- Settles O12: at the end of its micro-program a running block with a host opcode completes. -/
theorem operationCompletesAtItsEnd : Obligations.OperationCompletesAtItsEnd := by
  intro s hn hr hop hend
  obtain ⟨i, hi⟩ := (decodeHost_ok_iff s.op s.a).mpr hop
  have hend' : exec i (afterResetInput s) = .next (complete (afterResetInput s)) := exec_end hi hr hend
  rw [stepIsOneStepOfTheLatchedOperation s i hn hr hi, hend']
  rfl

/-! ### A step without block reset -/

/-- Block reset that is not asserted is `released`. -/
theorem NoReset.eq_released {s : State} (hn : NoReset s) {r : ResetIn} {rest : List ResetIn} (h : s.resetIn = r :: rest) :
    r = .released := by
  rcases hn with hnil | ⟨rest', hrel⟩
  · rw [h] at hnil
    cases hnil
  · rw [h, List.cons.injEq] at hrel
    exact hrel.1

/-- Without block reset a running block runs the sub-step that is due, or completes. -/
theorem stepOf_running_cases {c : Config} {s t : State} (hn : NoReset s) (hr : s.running = true)
    (h : stepOf c s = .next t) :
    (∃ sub, currentSubStep c s = some sub ∧ t = runSubStep c sub (afterResetInput s)) ∨
      (s.pc = (microProgram c s.op s.a).length ∧ t = complete (afterResetInput s)) := by
  rcases stepOf_cases h with ⟨r, rest, hl, hreset⟩ | ⟨-, ⟨-, hsub⟩ | ⟨-, hend, -, ht⟩ | ⟨hf, -⟩ | ⟨hf, -⟩⟩
  · obtain rfl := NoReset.eq_released hn hl
    rcases hreset with ⟨hr, -⟩ | ⟨d, hr, -⟩ <;> cases hr
  · exact .inl hsub
  · exact .inr ⟨hend, ht⟩
  · rw [hr] at hf
    cases hf
  · rw [hr] at hf
    cases hf

/-- Settles O14: sub-steps and completion leave the port and the latches. -/
theorem runningBlockTakesNoRequest : Obligations.RunningBlockTakesNoRequest := by
  intro s t hn hr h
  rcases stepOf_running_cases hn hr h with ⟨sub, -, rfl⟩ | ⟨-, rfl⟩
  · obtain ⟨hop, ha, hreqs, -⟩ := runSubStep_keeps Config.epd sub (afterResetInput s)
    exact ⟨hreqs, hop, ha⟩
  · exact ⟨rfl, rfl, rfl⟩

/-! ### A request (R130) -/

/-- A request on the ready port leaves the port and is taken. -/
theorem stepOf_request {c : Config} {s : State} {req : Req} {rest : List (Option Req)} (hn : NoReset s)
    (hr : s.running = false) (hq : s.reqs = some req :: rest) :
    stepOf c s = takeWord c req { afterResetInput s with reqs := rest } := by
  rw [stepOf_noReset hn]
  simp [sequencerStep, hr, hq, afterResetInput]

/-- The checks of a legal opcode, with the legality written as a proposition. -/
theorem takeRequest_decide (op : Byte) (a : Operands) (p : Prop) [Decidable p] (opsOk : Bool) (s : State) :
    takeRequest op a (decide p) opsOk s =
      if p ∧ s.session ≠ .idle then refuse .state s
      else if opsOk = true then accept op a s else refuse .param s := by
  by_cases hp : p <;> by_cases hs : s.session = .idle <;> simp [takeRequest, hp, hs]

/-- The three checks of R130: the opcode, then the session state and the operands. -/
theorem takeWord_eq {c : Config} {s : State} (req : Req) (hr : s.running = false) :
    takeWord c req s = .next (
      if 4 < (reqOpcode req).toNat then refuse .op s
      else takeRequest (reqOpcode req) (reqOperands req) (decide (reqOpcode req ≠ opInit))
        (operandsOk c (reqOpcode req) (reqOperands req)) s) := by
  split
  · next hlt =>
    obtain ⟨e, he⟩ := decodeHost_error_of_lt (reqOperands req) hlt
    simp [takeWord, decodeRequest, he]
  · next hle =>
    obtain ⟨i, hi⟩ := (decodeHost_ok_iff (reqOpcode req) (reqOperands req)).mpr (Nat.not_lt.mp hle)
    simp [takeWord, decodeRequest, hi, execOf_decoded hi, hostOperation, hr]

/-- Without a request the ready block waits (R190). -/
theorem stepOf_nothingPresented {c : Config} {s : State} {rest : List (Option Req)} (hn : NoReset s)
    (hr : s.running = false) (hq : s.reqs = none :: rest) :
    stepOf c s = .next { afterResetInput s with reqs := rest } := by
  rw [stepOf_noReset hn]
  simp [sequencerStep, hr, hq, afterResetInput]

theorem stepOf_noRequests {c : Config} {s : State} (hn : NoReset s) (hr : s.running = false) (hq : s.reqs = []) :
    stepOf c s = .next (afterResetInput s) := by
  rw [stepOf_noReset hn]
  simp [sequencerStep, hr, hq, afterResetInput]

/-- Without block reset a ready block takes the request on its port, or the port moves on. -/
theorem stepOf_ready_cases {c : Config} {s t : State} (hn : NoReset s) (hr : s.running = false) (h : stepOf c s = .next t) :
    (∃ req rest, takeWord c req { afterResetInput s with reqs := rest } = .next t) ∨
      ∃ rest, t = { afterResetInput s with reqs := rest } := by
  match hq : s.reqs with
  | some req :: rest =>
    rw [stepOf_request hn hr hq] at h
    exact .inl ⟨req, rest, h⟩
  | none :: rest =>
    rw [stepOf_nothingPresented hn hr hq, Host.Outcome.next.injEq] at h
    exact .inr ⟨rest, h.symm⟩
  | [] =>
    rw [stepOf_noRequests hn hr hq, Host.Outcome.next.injEq] at h
    exact .inr ⟨s.reqs, h.symm⟩

/-- A taken request is refused with one of the three codes, or accepted. -/
theorem takeWord_refused_or_accepted {c : Config} {s t : State} {req : Req} (hr : s.running = false)
    (h : takeWord c req s = .next t) :
    (∃ code, (code = .op ∨ code = .state ∨ code = .param) ∧ t = refuse code s) ∨
      t = accept (reqOpcode req) (reqOperands req) s := by
  rw [takeWord_eq req hr, Host.Outcome.next.injEq] at h
  subst h
  split
  · exact .inl ⟨.op, .inl rfl, rfl⟩
  · rcases takeRequest_cases (reqOpcode req) (reqOperands req) (decide (reqOpcode req ≠ opInit))
      (operandsOk c (reqOpcode req) (reqOperands req)) s with ⟨-, -, h⟩ | ⟨-, -, h⟩ | ⟨-, -, h⟩ <;> rw [h]
    · exact .inl ⟨.state, .inr (.inl rfl), rfl⟩
    · exact .inl ⟨.param, .inr (.inr rfl), rfl⟩
    · exact .inr rfl

/-- Settles O9: the step is the sequencer's, case by case. -/
theorem stepRunsTheDecodedOperation : Obligations.StepRunsTheDecodedOperation := by
  intro s hn
  refine ⟨fun i hr hi => ?_, fun req rest i hr hq hd => ?_, fun req rest e hr hq hd => ?_,
    fun rest hr hq => stepOf_nothingPresented hn hr hq,
    fun hr hq => stepOf_noRequests hn hr hq⟩
  · have hr' : (afterResetInput s).running = true := hr
    have hi' : currentInstr Config.epd (afterResetInput s) = some i := hi
    rw [step_eq, stepOf_sequencer hn, exec_eq]
    simp [sequencerStep, hr', hi']
  · rw [step_eq, stepOf_request hn hr hq, exec_eq]
    simp [takeWord, hd]
  · rw [step_eq, stepOf_request hn hr hq]
    rw [takeWord, hd]
    rfl

theorem areaOk_epd_iff (a : Operands) :
    areaOk Config.epd a = true ↔
      a.a0.toNat ≤ a.a2.toNat ∧ a.a2.toNat ≤ 127 ∧ a.a1.toNat ≤ a.a3.toNat ∧ a.a3.toNat ≤ 249 := by
  have hx : (xMax Config.epd).toNat = 127 := by decide
  have hy : (yMax Config.epd).toNat = 249 := by decide
  simp [areaOk, BitVec.le_def, hx, hy, and_assoc]

theorem pointerOk_epd_iff (a : Operands) : pointerOk Config.epd a = true ↔ a.a0.toNat ≤ 127 ∧ a.a1.toNat ≤ 249 := by
  have hx : (xMax Config.epd).toNat = 127 := by decide
  have hy : (yMax Config.epd).toNat = 249 := by decide
  simp [pointerOk, BitVec.le_def, hx, hy]

/-- The operand check of SETAREA and of SETPTR for 128 columns and 250 rows; the other opcodes have none. -/
theorem operandsOk_epd (op : Byte) (a : Operands) :
    operandsOk Config.epd op a = true ↔
      (op = 3 → a.a0.toNat ≤ a.a2.toNat ∧ a.a2.toNat ≤ 127 ∧ a.a1.toNat ≤ a.a3.toNat ∧ a.a3.toNat ≤ 249) ∧
        (op = 4 → a.a0.toNat ≤ 127 ∧ a.a1.toNat ≤ 249) := by
  unfold operandsOk
  split_ifs with h3 h4
  · subst h3
    simp [areaOk_epd_iff, opSetArea]
  · subst h4
    simp [pointerOk_epd_iff, opSetPtr]
  · exact iff_of_true rfl ⟨fun h => absurd h h3, fun h => absurd h h4⟩

/-- Settles O13: the checks of `takeWord_eq`, with the bounds of `Config.epd`. -/
theorem requestIsTakenByTheThreeChecks : Obligations.RequestIsTakenByTheThreeChecks := by
  intro s req rest hn hr hq op a0 a1 a2 a3 t
  have hr' : t.running = false := hr
  rw [step_eq, stepOf_request hn hr hq, takeWord_eq req hr']
  show Host.Outcome.next
    (if 4 < op.toNat then refuse .op t else takeRequest op ⟨a0, a1, a2, a3⟩ (decide (op ≠ opInit))
      (operandsOk Config.epd op ⟨a0, a1, a2, a3⟩) t) = _
  congr 1
  by_cases hlt : 4 < op.toNat
  · rw [if_pos hlt, if_pos hlt]
    rfl
  rw [if_neg hlt, if_neg hlt]
  rw [takeRequest_decide]
  by_cases hstate : op ≠ 0 ∧ s.session ≠ .idle
  · have hstate' : op ≠ opInit ∧ t.session ≠ .idle := hstate
    rw [if_pos hstate, if_pos hstate']
    rfl
  have hstate' : ¬ (op ≠ opInit ∧ t.session ≠ .idle) := hstate
  rw [if_neg hstate, if_neg hstate']
  have hops := operandsOk_epd op ⟨a0, a1, a2, a3⟩
  by_cases hok : operandsOk Config.epd op ⟨a0, a1, a2, a3⟩ = true
  · obtain ⟨harea, hpointer⟩ := hops.mp hok
    rw [if_pos hok, if_neg fun h => h.2 (harea h.1), if_neg fun h => h.2 (hpointer h.1)]
    rfl
  · rw [if_neg hok]
    rw [hops] at hok
    split_ifs with harea hpointer
    · rfl
    · rfl
    · exact absurd ⟨fun h => by_contra fun hn => harea ⟨h, hn⟩, fun h => by_contra fun hn => hpointer ⟨h, hn⟩⟩ hok

/-- A request of INIT is accepted in every session state. -/
theorem step_accepts_init {s : State} {req : Req} {rest : List (Option Req)} (hn : NoReset s) (hr : s.running = false)
    (hq : s.reqs = some req :: rest) (hop : req.extractLsb' 64 8 = (0x00 : Byte)) :
    step s = .next (accepted 0x00 (reqOperands req) { afterResetInput s with reqs := rest }) := by
  have htaken := requestIsTakenByTheThreeChecks s req rest hn hr hq
  simp only [hop] at htaken
  exact htaken

/-! ### What is not read before it is written (R190) -/

/-- The state with other values in the latches and in RESULT. -/
def relatched (op : Byte) (a : Operands) (r : Result) (s : State) : State := { s with op := op, a := a, result := r }

/-- `t'` differs from `t` in the latches and in RESULT alone, and in no latch while an operation runs. -/
def AgreesButLatches (t t' : State) : Prop :=
  { t' with op := t.op, a := t.a, result := t.result } = t ∧ (t.running = true → t'.op = t.op ∧ t'.a = t.a)

theorem AgreesButLatches.refl (t : State) : AgreesButLatches t t := ⟨rfl, fun _ => ⟨rfl, rfl⟩⟩

theorem relatched_agrees {s : State} (hr : s.running = false) (op : Byte) (a : Operands) (r : Result) :
    AgreesButLatches s (relatched op a r s) :=
  ⟨rfl, fun h => by rw [hr] at h; cases h⟩

/-- The checks of a request read neither the latches nor RESULT; a refusal writes RESULT and an acceptance the latches. -/
theorem takeWord_relatched {c : Config} {s t : State} {req : Req} (hr : s.running = false)
    (h : takeWord c req s = .next t) (op : Byte) (a : Operands) (r : Result) :
    ∃ t', takeWord c req (relatched op a r s) = .next t' ∧ AgreesButLatches t t' := by
  have hr' : (relatched op a r s).running = false := hr
  have hrefuse (code : RespCode) : AgreesButLatches (refuse code s) (refuse code (relatched op a r s)) :=
    relatched_agrees (s := refuse code s) hr op a _
  rw [takeWord_eq req hr, Host.Outcome.next.injEq] at h
  refine ⟨_, takeWord_eq req hr', ?_⟩
  subst h
  unfold takeRequest
  have hsession : (relatched op a r s).session = s.session := rfl
  rw [hsession]
  split_ifs
  · exact hrefuse .op
  · exact hrefuse .state
  · exact ⟨rfl, fun _ => ⟨rfl, rfl⟩⟩
  · exact hrefuse .param

/-- While nothing runs no frame is cut. -/
theorem cutFrame_ready {c : Config} {s : State} (hr : s.running = false) (d : Nat) : cutFrame c d s = s := by
  simp [cutFrame, hr]

/-- A ready block that is not reset takes a request, or waits, whatever the latches and RESULT hold. -/
theorem stepOf_relatched {c : Config} {s t : State} (hn : NoReset s) (hr : s.running = false) (h : stepOf c s = .next t)
    (op : Byte) (a : Operands) (r : Result) :
    ∃ t', stepOf c (relatched op a r s) = .next t' ∧ AgreesButLatches t t' := by
  have hn' : NoReset (relatched op a r s) := hn
  have hr' : (relatched op a r s).running = false := hr
  match hq : s.reqs with
  | some req :: rest =>
    have hq' : (relatched op a r s).reqs = some req :: rest := hq
    rw [stepOf_request hn hr hq] at h
    rw [stepOf_request hn' hr' hq']
    exact takeWord_relatched (s := { afterResetInput s with reqs := rest }) hr h op a r
  | none :: rest =>
    have hq' : (relatched op a r s).reqs = none :: rest := hq
    rw [stepOf_nothingPresented hn hr hq, Host.Outcome.next.injEq] at h
    subst h
    exact ⟨_, stepOf_nothingPresented hn' hr' hq', relatched_agrees (s := { afterResetInput s with reqs := rest }) hr op a r⟩
  | [] =>
    have hq' : (relatched op a r s).reqs = [] := hq
    rw [stepOf_noRequests hn hr hq, Host.Outcome.next.injEq] at h
    subst h
    exact ⟨_, stepOf_noRequests hn' hr' hq', relatched_agrees (s := afterResetInput s) hr op a r⟩

/-- Settles O15: block reset writes the latches and RESULT itself; otherwise the step is that of a ready block. -/
theorem latchesAreNotReadBeforeAcceptance : Obligations.LatchesAreNotReadBeforeAcceptance := by
  intro s t op a r hr h
  show ∃ t', stepOf Config.epd (relatched op a r s) = .next t' ∧ AgreesButLatches t t'
  rw [step_eq] at h
  match hl : s.resetIn with
  | [] => exact stepOf_relatched (.inl hl) hr h op a r
  | .released :: rest => exact stepOf_relatched (.inr ⟨rest, hl⟩) hr h op a r
  | .asserted :: rest =>
    have hl' : (relatched op a r s).resetIn = .asserted :: rest := hl
    simp only [stepOf, hl] at h
    simp only [stepOf, hl']
    exact ⟨t, h, .refl t⟩
  | .duringSend d :: rest =>
    have hl' : (relatched op a r s).resetIn = .duringSend d :: rest := hl
    simp only [stepOf, hl] at h
    simp only [stepOf, hl']
    rw [cutFrame_ready (s := { s with resetIn := rest }) hr] at h
    rw [cutFrame_ready (s := { relatched op a r s with resetIn := rest }) hr]
    exact ⟨t, h, .refl t⟩

/-! ### Every configuration (R19) -/

/-- Settles O56: a running block's step is its latched operation's and its sub-step's, a ready block's is that of the operation
it takes. -/
theorem blockOfAnyConfigurationRunsItsOperations : Obligations.BlockOfAnyConfigurationRunsItsOperations := by
  refine ⟨fun i s => ⟨(exec_eq i s).symm, (step_eq s).symm⟩, fun c s hn => ⟨fun i => stepOf_latched hn,
    fun sub => stepOf_subStep hn, fun req rest i hr hq hd => ?_⟩⟩
  rw [stepOf_request hn hr hq]
  simp [takeWord, hd]

end Sys2Proof.Proofs.Sequencer
end

section
/-! Every wire operation (R55, R70, R73, R100): the frames of the memory and refresh operations, what a fault does, what an
operation leaves alone, and which operand bits it does not read. -/

namespace Sys2Proof.Proofs.WireOperations

open Sys2Proof Sys2Proof.Machine Sys2Proof.Claims
open Sys2Proof.Proofs.WireFrames (exec_sends_frameDue sendsCommandAndData_of_encode sendsCommandAndData_of_encode_cons)

/-! ### The memory and refresh operations (R112 to R115) -/

/-- Of an operation without data bytes the Command frame is always due. -/
theorem frameDue_of_noData (c : Config) (s : State) (b : Byte) : frameDue c ⟨b, []⟩ s = ⟨.command, [b]⟩ := by
  unfold frameDue
  split
  · next h => cases h
  · rfl

/-- A wire operation without data bytes sends its command byte. -/
theorem sendsCommand_of_encode {i : Instr} {b : Byte} (hi : encode i = .wire ⟨b, []⟩) : SendsCommand i b := by
  intro s ps ss hp hs
  rw [exec_sends_frameDue hi hp hs, frameDue_of_noData]

/-- Settles O19: the encoding's data bytes are the payload. -/
theorem writeRamSendsItsPayloadWhole : Obligations.WriteRamSendsItsPayloadWhole :=
  ⟨fun _ hne => sendsCommandAndData_of_encode rfl hne, sendsCommand_of_encode rfl⟩

/-- Settles O20: the encodings of the three operations hold the bytes. -/
theorem refreshOperationsSendTheirFrames : Obligations.RefreshOperationsSendTheirFrames :=
  ⟨sendsCommandAndData_of_encode_cons rfl, sendsCommand_of_encode rfl, sendsCommand_of_encode rfl⟩

/-! ### The level of a frame (R55) -/

theorem selectLevel_eq_ite (c : Config) (m : Mode) :
    selectLevel c m = if m = .command then c.dcCmdLevel else if c.dcCmdLevel = .low then .high else .low := by
  cases m with
  | command => rfl
  | data => cases h : c.dcCmdLevel <;> simp [selectLevel, h, Level.other]

/-- Settles O55: a sent frame has the level of its mode. -/
theorem frameIsSentAtItsConfiguredLevel : Obligations.FrameIsSentAtItsConfiguredLevel := by
  refine ⟨rfl, fun c f s ps ss hp hs => ?_⟩
  rw [sendFrame_sent hp hs, selectLevel_eq_ite]

/-! ### Faults and the frame of an operation (R73, R100, R164) -/

/-- Settles O21: a fault of the send comes after some of the frame's bytes, a fault of the select line before them. -/
theorem wireOperationAbortsOnAFault : Obligations.WireOperationAbortsOnAFault := by
  intro i w s ps ss hw f l
  refine ⟨fun hp hs => ?_, fun hp => ?_⟩
  · refine ⟨min (Config.freeDelivered s.draws) f.payload.length, s.draws + 1, Nat.min_le_right _ _, ?_⟩
    rw [exec_wire hw, sendFrame_sendFault hp hs]
    rfl
  · refine ⟨Config.freeLevel s.draws, s.draws + 1, ?_⟩
    rw [exec_wire hw, sendFrame_selectFault hp]
    rfl

/-- Settles O22: in each of the three things SendFrame can do. -/
theorem wireOperationsLeaveTheRest : Obligations.WireOperationsLeaveTheRest := by
  intro i w s t hw h
  rw [exec_wire hw, Host.Outcome.next.injEq] at h
  rcases sendFrame_cases Config.epd (frameDue Config.epd w s) s with
    ⟨ps, ss, d, hsent⟩ | ⟨l, ps, d, hselect⟩ | ⟨n, ps, ss, d, -, hsend⟩
  · rw [hsent] at h
    subst h
    exact ⟨rfl, rfl, rfl, rfl, rfl, rfl, rfl, rfl, rfl, .inr rfl, .inl ⟨rfl, rfl, rfl⟩⟩
  · rw [hselect] at h
    subst h
    exact ⟨rfl, rfl, rfl, rfl, rfl, rfl, rfl, rfl, rfl, .inl rfl, .inr ⟨rfl, rfl, .inl rfl⟩⟩
  · rw [hsend] at h
    subst h
    exact ⟨rfl, rfl, rfl, rfl, rfl, rfl, rfl, rfl, rfl, .inr rfl, .inr ⟨rfl, rfl, .inr rfl⟩⟩

/-! ### Unaligned X coordinates (R36) -/

/-- The byte column does not depend on the low three bits. -/
theorem byteColumn_truncated (x : U16) : byteColumn (x &&& 0xFFF8) = byteColumn x := by
  have hmask : ((0xFFF8 : U16) >>> 3) &&& 0xFF#16 = 0xFF#16 := by decide
  rw [byteColumn, byteColumn, BitVec.ushiftRight_and_distrib, BitVec.and_assoc, hmask]

/-- Settles O7: an operation's meaning depends on its encoding alone, and the encoding on the byte columns. -/
theorem unalignedXIsTruncated : Obligations.UnalignedXIsTruncated := by
  intro x y s
  have hcounter : encode (.setXCounter (x &&& 0xFFF8)) = encode (.setXCounter x) := by
    simp only [encode, encodeWith, codeSetXCounter, byteColumn_truncated]
  have hwindow : encode (.setXWindow (x &&& 0xFFF8) (y &&& 0xFFF8)) = encode (.setXWindow x y) := by
    simp only [encode, encodeWith, codeSetXWindow, byteColumn_truncated]
  exact ⟨(exec_wire rfl s).trans (exec_wire hcounter s).symm, (exec_wire rfl s).trans (exec_wire hwindow s).symm⟩

end Sys2Proof.Proofs.WireOperations
end


section
/-! What a sub-step comes to (R131, R164): it succeeds, or it aborts; with everything later proofs need of either. -/

namespace Sys2Proof.Proofs.SubSteps

open Sys2Proof Sys2Proof.Machine

/-- The sub-step `sub` has led from `s` to `t` without an abort: `PC` has moved by one, or a wait has backed off. -/
structure Succeeded (c : Config) (sub : SubStep) (s t : State) : Prop where
  running : t.running = s.running
  result : t.result = s.result
  progress : t.pc = s.pc + 1 ∧ (t.waitCnt = 0 ∨ sub ≠ .wait ∧ t.waitCnt = s.waitCnt) ∨
    sub = .wait ∧ waitExpired c s.waitCnt = false ∧ t.pc = s.pc ∧ t.waitCnt = s.waitCnt + 1
  trace : ∃ es, t.trace = s.trace ++ es ∧ (∀ cls code, .response cls code ∉ es) ∧ ∀ e, .event e ∈ es → sub = .emit e

/-- The kinds of sub-step that raise a cause (R162). -/
def RaisedBy (sub : SubStep) (cause : RespCode) : Prop :=
  cause = .bus ∧ sub.isFrame = true ∨ cause = .gpio ∧ (sub.isFrame = true ∨ ∃ l, sub = .rst l) ∨ cause = .timeout ∧ sub = .wait

/-- An event that an abort leaves before its response: no send, no event of R170, no response. -/
def FaultEvent (ev : Event) : Prop :=
  (∀ e, ev ≠ .event e) ∧ (∀ bytes, ev ≠ .send bytes) ∧ ∀ cls code, ev ≠ .response cls code

/-- The sub-step `sub` has aborted and led from `s` to `t` (R164). -/
structure Aborted (sub : SubStep) (s t : State) : Prop where
  running : t.running = false
  same : SameBlock s t
  lineRst : t.lineRst = s.lineRst ∨ ∃ l, sub = .rst l
  lineDc : t.lineDc = s.lineDc ∨ sub.isFrame = true
  response : ∃ cause es, RaisedBy sub cause ∧ t.result = ⟨true, classOf s.op, cause⟩ ∧
    t.trace = s.trace ++ es ++ [.response (classOf s.op) cause] ∧ ∀ ev ∈ es, FaultEvent ev

theorem sendFrame_succeeds_or_aborts (c : Config) (f : Frame) {sub : SubStep} (hf : sub.isFrame = true) (s : State) :
    Succeeded c sub s (sendFrame c f s) ∨ Aborted sub s (sendFrame c f s) := by
  have hwait : sub ≠ .wait := by rintro rfl; cases hf
  rcases sendFrame_cases c f s with ⟨ps, ss, d, h⟩ | ⟨l, ps, d, h⟩ | ⟨n, ps, ss, d, -, h⟩ <;> rw [h]
  · exact .inl ⟨rfl, rfl, .inl ⟨rfl, .inr ⟨hwait, rfl⟩⟩, _, rfl, by simp, by simp⟩
  · exact .inr ⟨rfl, ⟨rfl, rfl, rfl, rfl, rfl⟩, .inl rfl, .inr hf, .gpio, [.pinWriteFault .dc (selectLevel c f.mode)],
      .inr (.inl ⟨rfl, .inl hf⟩), rfl, by simp, by simp [FaultEvent]⟩
  · exact .inr ⟨rfl, ⟨rfl, rfl, rfl, rfl, rfl⟩, .inl rfl, .inr hf, .bus,
      [.pinWrite .dc (selectLevel c f.mode), .sendFault f.payload n], .inl ⟨rfl, hf⟩, rfl, by simp, by simp [FaultEvent]⟩

/-- Every sub-step succeeds or aborts. -/
theorem runSubStep_succeeds_or_aborts (c : Config) (sub : SubStep) (s : State) :
    Succeeded c sub s (runSubStep c sub s) ∨ Aborted sub s (runSubStep c sub s) := by
  cases sub with
  | state x => exact .inl ⟨rfl, rfl, .inl ⟨rfl, .inr ⟨nofun, rfl⟩⟩, [], (List.append_nil _).symm, by simp, by simp⟩
  | hold ms => exact .inl ⟨rfl, rfl, .inl ⟨rfl, .inr ⟨nofun, rfl⟩⟩, [.delay ms], rfl, by simp, by simp⟩
  | emit e => exact .inl ⟨rfl, rfl, .inl ⟨rfl, .inr ⟨nofun, rfl⟩⟩, [.event e], rfl, by simp, by simp⟩
  | cmd op b => exact sendFrame_succeeds_or_aborts c ⟨.command, [b]⟩ rfl s
  | data op bytes => exact sendFrame_succeeds_or_aborts c ⟨.data, bytes⟩ rfl s
  | rst l =>
    rw [runSubStep]
    rcases rstStep_cases l s with ⟨ps, d, h⟩ | ⟨l', ps, d, h⟩ <;> rw [h]
    · exact .inl ⟨rfl, rfl, .inl ⟨rfl, .inr ⟨nofun, rfl⟩⟩, _, rfl, by simp, by simp⟩
    · exact .inr ⟨rfl, ⟨rfl, rfl, rfl, rfl, rfl⟩, .inr ⟨l, rfl⟩, .inl rfl, .gpio, [.pinWriteFault .rst l],
        .inr (.inl ⟨rfl, .inr ⟨l, rfl⟩⟩), rfl, by simp, by simp [FaultEvent]⟩
  | wait =>
    rw [runSubStep]
    rcases waitStep_cases c s with ⟨bs, d, h⟩ | ⟨bs, d, hx, h⟩ | ⟨bs, d, -, h⟩ <;> rw [h]
    · exact .inl ⟨rfl, rfl, .inl ⟨rfl, .inl rfl⟩, _, rfl, by simp, by simp⟩
    · exact .inl ⟨rfl, rfl, .inr ⟨rfl, hx, rfl, rfl⟩, _, rfl, by simp, by simp⟩
    · exact .inr ⟨rfl, ⟨rfl, rfl, rfl, rfl, rfl⟩, .inl rfl, .inl rfl, .timeout, [.busyRead .high],
        .inr (.inr ⟨rfl, rfl⟩), rfl, by simp, by simp [FaultEvent]⟩

/-- A sub-step after which a running block does not run has aborted. -/
theorem runSubStep_aborted {c : Config} {sub : SubStep} {s : State} (hr : s.running = true)
    (h : (runSubStep c sub s).running = false) : Aborted sub s (runSubStep c sub s) := by
  refine (runSubStep_succeeds_or_aborts c sub s).resolve_left fun hs => ?_
  rw [hs.running, hr] at h
  cases h

/-- Sub-steps leave the BUSY pin an input (R84), and chip-select as it is or inactive (R72). -/
theorem runSubStep_pins (c : Config) (sub : SubStep) (s : State) :
    (runSubStep c sub s).busyPin = s.busyPin ∧
      ((runSubStep c sub s).lineCs = s.lineCs ∨ (runSubStep c sub s).lineCs = .inactive) := by
  have frame (f : Frame) : (sendFrame c f s).busyPin = s.busyPin ∧
      ((sendFrame c f s).lineCs = s.lineCs ∨ (sendFrame c f s).lineCs = .inactive) := by
    rcases sendFrame_cases c f s with ⟨ps, ss, d, h⟩ | ⟨l, ps, d, h⟩ | ⟨n, ps, ss, d, -, h⟩ <;> rw [h]
    · exact ⟨rfl, .inr rfl⟩
    · exact ⟨rfl, .inl rfl⟩
    · exact ⟨rfl, .inr rfl⟩
  cases sub with
  | state x => exact ⟨rfl, .inl rfl⟩
  | hold ms => exact ⟨rfl, .inl rfl⟩
  | emit e => exact ⟨rfl, .inl rfl⟩
  | cmd op b => exact frame ⟨.command, [b]⟩
  | data op bytes => exact frame ⟨.data, bytes⟩
  | rst l => rw [runSubStep]; rcases rstStep_cases l s with ⟨ps, d, h⟩ | ⟨l', ps, d, h⟩ <;> rw [h] <;> exact ⟨rfl, .inl rfl⟩
  | wait =>
    rw [runSubStep]
    rcases waitStep_cases c s with ⟨bs, d, h⟩ | ⟨bs, d, -, h⟩ | ⟨bs, d, -, h⟩ <;> rw [h] <;> exact ⟨rfl, .inl rfl⟩

end Sys2Proof.Proofs.SubSteps
end

section
/-! The frame of the host operations (R130, R131, R138, R139). -/

namespace Sys2Proof.Proofs.HostFrame

open Sys2Proof Sys2Proof.Machine Sys2Proof.Claims
open Sys2Proof.Proofs.Sequencer (decodeHost_of_encode)
open Sys2Proof.Proofs.SubSteps (runSubStep_pins runSubStep_succeeds_or_aborts)

/-- Taking a request changes the latches, `PC`, WAITCNT and RUNNING, or RESULT; no line, no session state and no input. -/
theorem takeRequest_frame (op : Byte) (a : Operands) (needsIdle opsOk : Bool) {s t : State}
    (ht : takeRequest op a needsIdle opsOk s = t) (hr : s.running = false) :
    (t.reqs = s.reqs ∧ t.resetIn = s.resetIn ∧ t.busyPin = s.busyPin) ∧
    t.session = s.session ∧ t.lineRst = s.lineRst ∧ t.lineDc = s.lineDc ∧ t.lineCs = s.lineCs ∧
      t.pinAnswers = s.pinAnswers ∧ t.sendAnswers = s.sendAnswers ∧ t.busyLevels = s.busyLevels ∧ t.draws = s.draws ∧
      (t.running = true ∧ t.result = s.result ∧ t.trace = s.trace ∨
        t.running = false ∧ t.op = s.op ∧ t.a = s.a ∧ t.pc = s.pc ∧ t.waitCnt = s.waitCnt) := by
  rcases takeRequest_cases op a needsIdle opsOk s with ⟨-, -, h⟩ | ⟨-, -, h⟩ | ⟨-, -, h⟩ <;> rw [h] at ht <;> subst ht
  · exact ⟨⟨rfl, rfl, rfl⟩, rfl, rfl, rfl, rfl, rfl, rfl, rfl, rfl, .inr ⟨hr, rfl, rfl, rfl, rfl⟩⟩
  · exact ⟨⟨rfl, rfl, rfl⟩, rfl, rfl, rfl, rfl, rfl, rfl, rfl, rfl, .inr ⟨hr, rfl, rfl, rfl, rfl⟩⟩
  · exact ⟨⟨rfl, rfl, rfl⟩, rfl, rfl, rfl, rfl, rfl, rfl, rfl, rfl, .inl ⟨rfl, rfl, rfl⟩⟩

/-- A sub-step writes RESULT only when the operation ends by it. -/
theorem runSubStep_result {c : Config} {sub : SubStep} {s : State} (h : (runSubStep c sub s).running = true) :
    (runSubStep c sub s).result = s.result := by
  rcases runSubStep_succeeds_or_aborts c sub s with hs | ha
  · exact hs.result
  · rw [ha.running] at h
    cases h

/-- Settles O23: a host operation's step takes a request, runs a sub-step or completes. -/
theorem hostOperationsLeaveTheRest : Obligations.HostOperationsLeaveTheRest := by
  intro i req s t hi h
  obtain ⟨op, a, hd⟩ := decodeHost_of_encode hi
  obtain ⟨needsIdle, opsOk, he⟩ := exec_host hd s
  rw [he] at h
  rcases hostOperation_cases Config.epd op a needsIdle opsOk (microProgram Config.epd op a) s with
    ⟨hr, hop⟩ | ⟨sub, hr, -, hop⟩ | ⟨hr, -, hop⟩ | ⟨-, -, hop⟩ <;> rw [hop] at h <;> cases h
  · obtain ⟨⟨hreqs, hreset, hbusy⟩, hrest⟩ := takeRequest_frame op a needsIdle opsOk rfl hr
    exact ⟨hreqs, hreset, hbusy, fun _ => hrest, fun hf => absurd hf (by simp [hr])⟩
  · obtain ⟨hop', ha, hreqs, hreset⟩ := runSubStep_keeps Config.epd sub s
    exact ⟨hreqs, hreset, (runSubStep_pins Config.epd sub s).1, fun hf => absurd hf (by simp [hr]),
      fun _ => ⟨hop', ha, runSubStep_result⟩⟩
  · exact ⟨rfl, rfl, rfl, fun hf => absurd hf (by simp [hr]), fun _ => ⟨rfl, rfl, nofun⟩⟩

end Sys2Proof.Proofs.HostFrame
end

section
/-! The micro-programs: the compounds, the rows of CLEAR, the command bytes, the kinds of sub-step outside INIT, and INIT written
out (R39, R59, R118, R133, R134). -/

namespace Sys2Proof.Proofs.Programs

open Sys2Proof Sys2Proof.Machine Sys2Proof.Claims

/-- Settles O39: the encodings of the four operations, frame by frame. -/
theorem compoundsAreXBeforeY : Obligations.CompoundsAreXBeforeY :=
  fun _ _ _ _ => ⟨rfl, rfl⟩

/-- Settles O41: a Command frame carries the command byte of its operation, and there are fifteen of those. -/
theorem onlyTheFifteenCommandsAreSent : Obligations.OnlyTheFifteenCommandsAreSent := by
  intro c op a i b h
  obtain ⟨w, hw, rfl⟩ := microProgram_tagOk c op a _ h
  cases i <;> cases hw <;> exact List.elem_iff.mp rfl

/-! ### The rows of CLEAR (R39, R134) -/

theorem fillRow_ne_nil {c : Config} (hw : 8 ≤ c.width.toNat) (v : Byte) : fillRow c v ≠ [] := by
  have hlen : (fillRow c v).length = c.width.toNat / 8 := List.length_replicate
  intro h
  rw [h, List.length_nil] at hlen
  omega

/-- One row of bitmap data: its pointer, a wait, its bytes (R39). -/
theorem memWrite_eq (col : Byte) (row : U16) {bytes : List Byte} (h : bytes ≠ []) :
    memWrite col row bytes =
      [.cmd (.setXCounter (columnPixel col)) 0x4E, .data (.setXCounter (columnPixel col)) [byteColumn (columnPixel col)],
        .cmd (.setYCounter row) 0x4F, .data (.setYCounter row) [lo row, hi row], .wait,
        .cmd (.writeRam bytes) 0x24, .data (.writeRam bytes) bytes] := by
  cases bytes with
  | nil => exact absurd rfl h
  | cons b bs => rfl

theorem clearRows_add (c : Config) (v : Byte) (row m n : Nat) :
    clearRows c v row (m + n) = clearRows c v row m ++ clearRows c v (row + m) n := by
  induction m generalizing row with
  | zero => simp [clearRows]
  | succ m ih =>
    rw [Nat.succ_add, clearRows, clearRows, ih, List.append_assoc, show row + 1 + m = row + (m + 1) by omega]

theorem memWrite_counts (col : Byte) (row : U16) {bytes : List Byte} (h : bytes ≠ []) :
    (memWrite col row bytes).countP SubStep.isFrame = 6 ∧ (memWrite col row bytes).count .wait = 1 := by
  rw [memWrite_eq _ _ h]
  exact ⟨rfl, rfl⟩

theorem clearRows_counts {c : Config} (hw : 8 ≤ c.width.toNat) (v : Byte) (row n : Nat) :
    (clearRows c v row n).countP SubStep.isFrame = 6 * n ∧ (clearRows c v row n).count .wait = n := by
  induction n generalizing row with
  | zero => exact ⟨rfl, rfl⟩
  | succ n ih =>
    obtain ⟨hframes, hwaits⟩ := ih (row + 1)
    obtain ⟨hframe, hwait⟩ := memWrite_counts 0 (BitVec.ofNat 16 row) (fillRow_ne_nil hw v)
    rw [clearRows, List.countP_append, List.count_append, hframes, hwaits, hframe, hwait]
    omega

/-- CLEAR: the session state and the window in five sub-steps, the rows, the session state. -/
theorem clearProgram_eq (c : Config) (a : Operands) :
    clearProgram c a = (.state .writingFrame :: setWindow 0 0 (xMax c) (yMax c)) ++
      (clearRows c (fillValue a) 0 c.height.toNat ++ [.state .idle]) := by
  simp [clearProgram]

/-- Settles O40: the counts row by row, and the seven sub-steps after `row` rows. -/
theorem clearProgramWritesRowByRow : Obligations.ClearProgramWritesRowByRow := by
  intro c a hc
  obtain ⟨hw, -, -, -⟩ := hc
  obtain ⟨hframes, hwaits⟩ := clearRows_counts hw (fillValue a) 0 c.height.toNat
  have hwindow : (setWindow 0 0 (xMax c) (yMax c)).countP SubStep.isFrame = 4 ∧
      (setWindow 0 0 (xMax c) (yMax c)).count .wait = 0 := ⟨rfl, rfl⟩
  refine ⟨?_, ?_, ?_, fun row hrow => ?_⟩
  · rw [clearProgram_eq, List.length_append, List.length_append, clearRows_length c _ hw]
    show 5 + (7 * c.height.toNat + 1) = _
    omega
  · rw [clearProgram_eq, List.countP_append, List.countP_append, List.countP_cons, hwindow.1, hframes]
    simp [SubStep.isFrame]
    omega
  · rw [clearProgram_eq, List.count_append, List.count_append, List.count_cons, hwindow.2, hwaits]
    simp
  · obtain ⟨n, hn⟩ := Nat.exists_eq_add_of_lt hrow
    have hbefore : (clearRows c (fillValue a) 0 row).length = 7 * row := clearRows_length c _ hw 0 row
    rw [clearProgram_eq, ← List.drop_drop, List.drop_left' (by rfl), hn, Nat.add_assoc, clearRows_add, List.append_assoc,
      List.drop_left' hbefore, clearRows, List.append_assoc, Nat.zero_add]
    exact List.take_left' (by rw [memWrite_eq _ _ (fillRow_ne_nil hw _)]; rfl)

/-! ### Kinds of sub-step (R131) -/

theorem wireSubSteps_isFrame (i : Instr) (w : WireCode) : ∀ sub ∈ wireSubSteps i w, sub.isFrame = true := by
  unfold wireSubSteps
  split <;> simp [SubStep.isFrame]

theorem setWindow_isFrame (x0 y0 x1 y1 : U16) : ∀ sub ∈ setWindow x0 y0 x1 y1, sub.isFrame = true :=
  List.forall_mem_append.mpr ⟨wireSubSteps_isFrame _ _, wireSubSteps_isFrame _ _⟩

theorem setPointer_isFrame (x y : U16) : ∀ sub ∈ setPointer x y, sub.isFrame = true :=
  List.forall_mem_append.mpr ⟨wireSubSteps_isFrame _ _, wireSubSteps_isFrame _ _⟩

theorem configSequence_isFrame (c : Config) : ∀ sub ∈ configSequence c, sub.isFrame = true := by
  simp only [configSequence, List.forall_mem_append]
  exact ⟨⟨⟨⟨⟨⟨wireSubSteps_isFrame _ _, wireSubSteps_isFrame _ _⟩, wireSubSteps_isFrame _ _⟩, wireSubSteps_isFrame _ _⟩,
    wireSubSteps_isFrame _ _⟩, wireSubSteps_isFrame _ _⟩, wireSubSteps_isFrame _ _⟩

/-- A sub-step that transfers bytes or waits for the display. -/
def Transfers (sub : SubStep) : Prop := sub.isFrame = true ∨ sub = .wait

theorem transfers_of_isFrame {l : List SubStep} (h : ∀ sub ∈ l, sub.isFrame = true) : ∀ sub ∈ l, Transfers sub :=
  fun sub hs => .inl (h sub hs)

theorem wait_transfers : ∀ sub ∈ [SubStep.wait], Transfers sub := by simp [Transfers]

theorem clearRows_transfers (c : Config) (v : Byte) (row n : Nat) : ∀ sub ∈ clearRows c v row n, Transfers sub := by
  induction n generalizing row with
  | zero => simp [clearRows]
  | succ n ih =>
    simp only [clearRows, memWrite, List.forall_mem_append]
    exact ⟨⟨⟨transfers_of_isFrame (setPointer_isFrame _ _), wait_transfers⟩,
      transfers_of_isFrame (wireSubSteps_isFrame _ _)⟩, ih (row + 1)⟩

/-- A session operation other than INIT is transfers from its busy state to Idle (R134 to R137). -/
theorem microProgram_eq_of_ne_init {c : Config} {op : Byte} {a : Operands} (hop : op ≠ opInit) :
    microProgram c op a = [] ∨ ∃ x transfers, microProgram c op a = .state x :: transfers ++ [.state .idle] ∧
      (∀ sub ∈ transfers, Transfers sub) ∧
      (op = 0x02 ∧ x = .refreshing ∨ (op = 0x01 ∨ op = 0x03 ∨ op = 0x04) ∧ x = .writingFrame) := by
  unfold microProgram
  rw [if_neg hop]
  split_ifs with hclear hdisplay harea hptr
  · refine .inr ⟨.writingFrame, setWindow 0 0 (xMax c) (yMax c) ++ clearRows c (fillValue a) 0 c.height.toNat, ?_, ?_,
      .inr ⟨.inl hclear, rfl⟩⟩
    · simp [clearProgram]
    · exact List.forall_mem_append.mpr ⟨transfers_of_isFrame (setWindow_isFrame _ _ _ _), clearRows_transfers _ _ _ _⟩
  · refine .inr ⟨.refreshing, wireSubSteps .displayUpdateControl2 codeDisplayUpdateControl2 ++
      wireSubSteps .masterActivation codeMasterActivation ++ wireSubSteps .terminateFrameRw codeTerminateFrameRw ++ [.wait],
      rfl, ?_, .inl ⟨hdisplay, rfl⟩⟩
    simp only [List.forall_mem_append]
    exact ⟨⟨⟨transfers_of_isFrame (wireSubSteps_isFrame _ _), transfers_of_isFrame (wireSubSteps_isFrame _ _)⟩,
      transfers_of_isFrame (wireSubSteps_isFrame _ _)⟩, wait_transfers⟩
  · exact .inr ⟨.writingFrame, setWindow a.a0 a.a1 a.a2 a.a3, rfl,
      transfers_of_isFrame (setWindow_isFrame _ _ _ _), .inr ⟨.inr (.inl harea), rfl⟩⟩
  · refine .inr ⟨.writingFrame, setPointer a.a0 a.a1 ++ [.wait], by simp [setPtrProgram], ?_,
      .inr ⟨.inr (.inr hptr), rfl⟩⟩
    exact List.forall_mem_append.mpr ⟨transfers_of_isFrame (setPointer_isFrame _ _), wait_transfers⟩
  · exact .inl rfl

/-- Outside INIT every sub-step transfers or writes SESSION_STATE. -/
theorem transfers_or_state {c : Config} {op : Byte} {a : Operands} {sub : SubStep} (hop : op ≠ opInit)
    (h : sub ∈ microProgram c op a) : Transfers sub ∨ ∃ x, sub = .state x := by
  rcases microProgram_eq_of_ne_init (c := c) (a := a) hop with hnil | ⟨x, l, hl, htransfers, -⟩
  · rw [hnil] at h
    cases h
  · rw [hl] at h
    simp only [List.mem_append, List.mem_cons, List.not_mem_nil, or_false] at h
    rcases h with (rfl | h) | rfl
    · exact .inr ⟨_, rfl⟩
    · exact .inl (htransfers sub h)
    · exact .inr ⟨_, rfl⟩

/-- A sub-step of any other kind belongs to INIT. -/
theorem init_of_mem {c : Config} {op : Byte} {a : Operands} {sub : SubStep} (h : sub ∈ microProgram c op a)
    (hframe : sub.isFrame = false) (hwait : sub ≠ .wait) (hstate : ∀ x, sub ≠ .state x) : op = opInit := by
  by_contra hop
  rcases transfers_or_state hop h with (hframe' | hwait') | ⟨x, hx⟩
  · rw [hframe] at hframe'
    cases hframe'
  · exact hwait hwait'
  · exact hstate x hx

/-- INIT before, within and after its configuration frames (R133). -/
theorem initProgram_eq (c : Config) :
    initProgram c = [.state .resetting, .rst .low, .hold c.resetLowMs, .rst .high, .hold c.resetHighMs, .emit .reset,
      .state .configuring] ++ (configSequence c ++ [.state .idle, .emit .ready]) := by
  simp [initProgram, resetPulse]

end Sys2Proof.Proofs.Programs
end

section
/-! SESSION_STATE along a micro-program (R11, R132, R165): its `STATE` sub-steps move along the listed edges, and the sub-steps
that can abort stand where the session is in the operation's busy state. -/

namespace Sys2Proof.Proofs.SessionWalk

open Sys2Proof Sys2Proof.Machine
open Sys2Proof.Proofs.SubSteps (RaisedBy)
open Sys2Proof.Proofs.Programs (Transfers configSequence_isFrame initProgram_eq microProgram_eq_of_ne_init transfers_of_isFrame)

/-- A sub-step that can abort: a frame, a `WAIT` or a reset-line write (R162). -/
def MayAbort (sub : SubStep) : Prop := Transfers sub ∨ ∃ l, sub = .rst l

theorem mayAbort_of_raisedBy {sub : SubStep} {cause : RespCode} (h : RaisedBy sub cause) : MayAbort sub := by
  rcases h with ⟨-, hframe⟩ | ⟨-, hframe | hrst⟩ | ⟨-, hwait⟩
  · exact .inl (.inl hframe)
  · exact .inl (.inl hframe)
  · exact .inr hrst
  · exact .inl (.inr hwait)

/-- SESSION_STATE after a sub-step that succeeds (R11). -/
def sessionAfter (x : SessionState) : SubStep → SessionState
  | .state y => y
  | _ => x

theorem sessionAfter_of_ne_state {sub : SubStep} (h : ∀ y, sub ≠ .state y) (x : SessionState) : sessionAfter x sub = x := by
  cases sub with
  | state y => exact absurd rfl (h y)
  | _ => rfl

theorem runSubStep_sessionAfter (c : Config) (sub : SubStep) (s : State) :
    (runSubStep c sub s).session = sessionAfter s.session sub := by
  by_cases h : ∃ y, sub = .state y
  · obtain ⟨y, rfl⟩ := h
    rfl
  · have hne : ∀ y, sub ≠ .state y := fun y hy => h ⟨y, hy⟩
    rw [runSubStep_session c sub s hne, sessionAfter_of_ne_state hne]

/-- The list entered in session state `x`: where a sub-step can abort the state is busy, and a `STATE` moves along an edge. -/
def Walk (busy : SessionState → Prop) : SessionState → List SubStep → Prop
  | _, [] => True
  | x, sub :: rest => (MayAbort sub → busy x) ∧ (∀ y, sub = .state y → sessionEdge x y = true) ∧
      Walk busy (sessionAfter x sub) rest

theorem lastState_cons_getD (x : SessionState) (sub : SubStep) (l : List SubStep) :
    (lastState (sub :: l)).getD x = (lastState l).getD (sessionAfter x sub) := by
  cases h : lastState l <;> cases sub <;> simp [lastState, h, sessionAfter]

theorem lastState_of_ne_state {sub : SubStep} (h : ∀ y, sub ≠ .state y) : lastState [sub] = none := by
  cases sub with
  | state y => exact absurd rfl (h y)
  | _ => rfl

/-- What a walk says of a position, by the session state the sub-steps before it leave. -/
theorem Walk.at {busy : SessionState → Prop} {x : SessionState} {l : List SubStep} (h : Walk busy x l) {k : Nat}
    {sub : SubStep} (hk : l[k]? = some sub) :
    (MayAbort sub → busy ((lastState (l.take k)).getD x)) ∧
      ∀ y, sub = .state y → sessionEdge ((lastState (l.take k)).getD x) y = true := by
  induction l generalizing x k with
  | nil => cases hk
  | cons sub' rest ih =>
    obtain ⟨hbusy, hedge, hrest⟩ := h
    cases k with
    | zero =>
      obtain rfl : sub' = sub := by simpa using hk
      exact ⟨hbusy, hedge⟩
    | succ k =>
      rw [List.take_succ_cons, lastState_cons_getD]
      exact ih hrest (by simpa using hk)

/-- A sub-step that is no `STATE` keeps a busy session state. -/
theorem Walk.stay {busy : SessionState → Prop} {x : SessionState} {sub : SubStep} {l : List SubStep} (hx : busy x)
    (hstate : ∀ y, sub ≠ .state y) (hl : Walk busy x l) : Walk busy x (sub :: l) :=
  ⟨fun _ => hx, fun y hy => absurd hy (hstate y), by rw [sessionAfter_of_ne_state hstate]; exact hl⟩

theorem ne_state_of_transfers {sub : SubStep} (h : Transfers sub) (y : SessionState) : sub ≠ .state y := by
  rintro rfl
  rcases h with hframe | hwait
  · cases hframe
  · cases hwait

theorem Walk.transfers {busy : SessionState → Prop} {x : SessionState} {l m : List SubStep} (hl : ∀ sub ∈ l, Transfers sub)
    (hx : busy x) (hm : Walk busy x m) : Walk busy x (l ++ m) := by
  induction l with
  | nil => exact hm
  | cons sub rest ih =>
    obtain ⟨hsub, hrest⟩ := List.forall_mem_cons.mp hl
    exact .stay hx (ne_state_of_transfers hsub) (ih hrest)

/-- A `STATE` sub-step moves along its edge. -/
theorem Walk.state {busy : SessionState → Prop} {x y : SessionState} {l : List SubStep} (hedge : sessionEdge x y = true)
    (hl : Walk busy y l) : Walk busy x (.state y :: l) := by
  refine ⟨?_, fun z hz => ?_, hl⟩
  · rintro ((hframe | hwait) | ⟨l, hrst⟩)
    · cases hframe
    · cases hwait
    · cases hrst
  · cases hz
    exact hedge

/-- The session states in which an operation can abort (R165). -/
def BusyState (op : Byte) (x : SessionState) : Prop :=
  op = 0x00 ∧ (x = .resetting ∨ x = .configuring) ∨ op = 0x02 ∧ x = .refreshing ∨
    (op = 0x01 ∨ op = 0x03 ∨ op = 0x04) ∧ x = .writingFrame

theorem BusyState.ne_idle {op : Byte} {x : SessionState} (h : BusyState op x) : x ≠ .idle := by
  rcases h with ⟨-, rfl | rfl⟩ | ⟨-, rfl⟩ | ⟨-, rfl⟩ <;> decide

theorem initProgram_walk (c : Config) (x : SessionState) : Walk (BusyState opInit) x (initProgram c) := by
  have hresetting : BusyState opInit .resetting := .inl ⟨rfl, .inl rfl⟩
  have hconfiguring : BusyState opInit .configuring := .inl ⟨rfl, .inr rfl⟩
  have hready : Walk (BusyState opInit) .idle [.emit .ready] := by simp [Walk, MayAbort, Transfers, SubStep.isFrame]
  have hconfig : Walk (BusyState opInit) .configuring (configSequence c ++ [.state .idle, .emit .ready]) :=
    .transfers (transfers_of_isFrame (configSequence_isFrame c)) hconfiguring (.state rfl hready)
  have hpulse {sub : SubStep} {l : List SubStep} (hstate : ∀ y, sub ≠ .state y) (hl : Walk (BusyState opInit) .resetting l) :
      Walk (BusyState opInit) .resetting (sub :: l) := .stay hresetting hstate hl
  rw [initProgram_eq]
  exact .state (by cases x <;> rfl)
    (hpulse nofun (hpulse nofun (hpulse nofun (hpulse nofun (hpulse nofun (.state rfl hconfig))))))

/-- Every micro-program walks along the edges, INIT from any session state and the others from Idle. -/
theorem microProgram_walk (c : Config) {op : Byte} (a : Operands) {x : SessionState} (hx : op = opInit ∨ x = .idle) :
    Walk (BusyState op) x (microProgram c op a) := by
  by_cases hop : op = opInit
  · subst hop
    exact initProgram_walk c x
  · obtain rfl := hx.resolve_left hop
    rcases microProgram_eq_of_ne_init (c := c) (a := a) hop with hnil | ⟨y, l, hl, htransfers, hbusy⟩
    · rw [hnil]
      trivial
    · have hedges : sessionEdge .idle y = true ∧ sessionEdge y .idle = true := by
        rcases hbusy with ⟨-, rfl⟩ | ⟨-, rfl⟩ <;> exact ⟨rfl, rfl⟩
      rw [hl]
      exact .state hedges.1 (.transfers htransfers (.inr hbusy) (.state hedges.2 trivial))

/-- A micro-program begins with its `STATE` sub-step, so after the first sub-step some state has been written. -/
theorem lastState_take_ne_none {c : Config} {op : Byte} {a : Operands} {k : Nat} {sub : SubStep}
    (hk : (microProgram c op a)[k + 1]? = some sub) : ∃ y, lastState ((microProgram c op a).take (k + 1)) = some y := by
  have hfirst (x : SessionState) (l : List SubStep) : ∃ y, lastState ((.state x :: l).take (k + 1)) = some y := by
    rw [List.take_succ_cons, lastState]
    cases lastState (l.take k) with
    | some y => exact ⟨y, rfl⟩
    | none => exact ⟨x, rfl⟩
  by_cases hop : op = opInit
  · subst hop
    exact hfirst .resetting _
  · rcases microProgram_eq_of_ne_init (c := c) (a := a) hop with hnil | ⟨x, l, hl, -⟩
    · rw [hnil] at hk
      cases hk
    · rw [hl]
      exact hfirst x _

/-- In states of the invariant the walk says of the sub-step that is due: if it can abort the session is in the operation's busy
state, and a `STATE` moves along an edge. -/
theorem walk_of_inv {c : Config} {s : State} (h : s.InvOf c) (hr : s.running = true) {sub : SubStep}
    (hsub : currentSubStep c s = some sub) :
    (MayAbort sub → BusyState s.op s.session) ∧ ∀ y, sub = .state y → sessionEdge s.session y = true := by
  cases hpc : s.pc with
  | zero =>
    have hsub' : (microProgram c s.op s.a)[0]? = some sub := by rw [← hpc]; exact hsub
    exact (microProgram_walk c s.a (h.entered hr hpc)).at hsub'
  | succ k =>
    have hsub' : (microProgram c s.op s.a)[k + 1]? = some sub := by rw [← hpc]; exact hsub
    obtain ⟨y, hy⟩ := lastState_take_ne_none hsub'
    have hsession : s.session = y := h.session hr y (by rw [hpc]; exact hy)
    have hwalk := (microProgram_walk c s.a (.inr rfl)).at hsub'
    rw [hy, Option.getD_some, ← hsession] at hwalk
    exact hwalk

end Sys2Proof.Proofs.SessionWalk
end

section
/-! The invariant of the runs from reset (R11, R14, R15, R18, R84, R93, R130, R132, R165), for every configuration with a back-off
above zero. -/

namespace Sys2Proof.Proofs.Invariant

open Sys2Proof Sys2Proof.Machine Sys2Proof.Claims
open Sys2Proof.Proofs.Sequencer (decodeHost_ok_iff takeWord_eq stepOf_latched stepOf_request stepOf_nothingPresented
  stepOf_noRequests execOf_decoded
  stepOf_ready_cases stepOf_running_cases takeWord_refused_or_accepted)
open Sys2Proof.Proofs.SubSteps (runSubStep_succeeds_or_aborts runSubStep_pins)
open Sys2Proof.Proofs.SessionWalk

/-- What the invariant asks of a state in which nothing runs. -/
theorem inv_of_ready {c : Config} {s : State} (hr : s.running = false) (hcs : s.lineCs = .inactive) (hbusy : s.busyPin = .input)
    (hbound : ∀ t, c.busyTimeoutMs = some t → s.waitCnt * c.backoffMs < t + c.backoffMs)
    (habort : s.result.cls = .initError ∨ s.result.cls = .ioError → s.session ≠ .idle) : s.InvOf c where
  chipSelect := hcs
  busyInput := hbusy
  opcode h := by rw [hr] at h; cases h
  operands h := by rw [hr] at h; cases h
  position h := by rw [hr] at h; cases h
  entered h := by rw [hr] at h; cases h
  session h := by rw [hr] at h; cases h
  waiting h := by rw [hr] at h; cases h
  bounded := hbound
  aborted _ := habort

/-- The invariant does not speak of the host's inputs. -/
theorem inv_withInputs {c : Config} {s : State} (h : s.InvOf c) (reqs : List (Option Req)) (resetIn : List ResetIn) :
    ({ s with reqs := reqs, resetIn := resetIn } : State).InvOf c :=
  ⟨h.chipSelect, h.busyInput, h.opcode, h.operands, h.position, h.entered, h.session, h.waiting, h.bounded, h.aborted⟩

/-- No wait has been counted yet. -/
theorem zero_bounded {c : Config} (hb : 0 < c.backoffMs) (t : Nat) : 0 * c.backoffMs < t + c.backoffMs := by omega

theorem blockReset_inv {c : Config} (hb : 0 < c.backoffMs) (s : State) : (blockReset c s).InvOf c :=
  inv_of_ready rfl rfl rfl (fun t _ => zero_bounded hb t) (by rintro (h | h) <;> cases h)

theorem resetOf_inv {c : Config} (hb : 0 < c.backoffMs) : (State.resetOf c).InvOf c :=
  inv_of_ready rfl rfl rfl (fun t _ => zero_bounded hb t) (by rintro (h | h) <;> cases h)

theorem complete_inv {c : Config} {s : State} (h : s.InvOf c) : (complete s).InvOf c :=
  inv_of_ready rfl h.chipSelect h.busyInput h.bounded (by rintro (h | h) <;> cases h)

theorem refuse_inv {c : Config} {s : State} (h : s.InvOf c) (hr : s.running = false) (code : RespCode) :
    (refuse code s).InvOf c :=
  inv_of_ready hr h.chipSelect h.busyInput h.bounded (by rintro (h | h) <;> cases h)

/-- An accepted request is at `PC = 0` of a checked operation, in Idle or with INIT. -/
theorem accept_inv {c : Config} (hb : 0 < c.backoffMs) {s : State} (h : s.InvOf c) {op : Byte} {a : Operands}
    (hop : op.toNat ≤ 4) (hops : operandsOk c op a = true) (hidle : op = opInit ∨ s.session = .idle) :
    (accept op a s).InvOf c where
  chipSelect := h.chipSelect
  busyInput := h.busyInput
  opcode _ := hop
  operands _ := hops
  position _ := Nat.zero_le _
  entered _ _ := hidle
  session _ _ hx := by cases hx
  waiting _ hw := absurd rfl hw
  bounded t _ := zero_bounded hb t
  aborted hr := by cases hr

section SubStep

variable {c : Config} {s : State} {sub : SubStep} (h : s.InvOf c)
include h

theorem runSubStep_chipSelect : (runSubStep c sub s).lineCs = .inactive :=
  (runSubStep_pins c sub s).2.elim (fun he => he.trans h.chipSelect) id

variable (hr : s.running = true)
include hr

/-- A sub-step that succeeds and moves on keeps the invariant. -/
theorem advance_inv (hb : 0 < c.backoffMs) (hsub : currentSubStep c s = some sub)
    (hrun : (runSubStep c sub s).running = s.running) (hpc : (runSubStep c sub s).pc = s.pc + 1)
    (hwait : (runSubStep c sub s).waitCnt = 0) : (runSubStep c sub s).InvOf c := by
  obtain ⟨hop, ha, -, -⟩ := runSubStep_keeps c sub s
  have hsub' : (microProgram c s.op s.a)[s.pc]? = some sub := hsub
  obtain ⟨hlt, -⟩ := List.getElem?_eq_some_iff.mp hsub'
  constructor
  case chipSelect => exact runSubStep_chipSelect h
  case busyInput => exact (runSubStep_pins c sub s).1.trans h.busyInput
  case opcode => rw [hop]; exact fun _ => h.opcode hr
  case operands => rw [hop, ha]; exact fun _ => h.operands hr
  case position => rw [hop, ha, hpc]; exact fun _ => hlt
  case entered => exact fun _ h0 => by omega
  case session =>
    intro _ x hx
    rw [hop, ha, hpc, List.take_add_one, hsub', Option.toList_some, lastState_append] at hx
    rw [runSubStep_sessionAfter]
    by_cases hstate : ∃ y, sub = .state y
    · obtain ⟨y, rfl⟩ := hstate
      simpa [lastState, sessionAfter] using hx
    · have hne : ∀ y, sub ≠ .state y := fun y hy => hstate ⟨y, hy⟩
      rw [lastState_of_ne_state hne, Option.none_or] at hx
      rw [sessionAfter_of_ne_state hne]
      exact h.session hr x hx
  case waiting => exact fun _ hw => absurd hwait hw
  case bounded => rw [hwait]; exact fun t _ => zero_bounded hb t
  case aborted => rw [hrun, hr]; exact nofun

/-- A wait that backs off stays below its bound plus one back-off (R93). -/
theorem backOff_inv (hsub : currentSubStep c s = some .wait) (hx : waitExpired c s.waitCnt = false)
    (hrun : (runSubStep c .wait s).running = s.running) (hpc : (runSubStep c .wait s).pc = s.pc)
    (hwait : (runSubStep c .wait s).waitCnt = s.waitCnt + 1) : (runSubStep c .wait s).InvOf c := by
  obtain ⟨hop, ha, -, -⟩ := runSubStep_keeps c .wait s
  have hsession := runSubStep_session c .wait s nofun
  constructor
  case chipSelect => exact runSubStep_chipSelect h
  case busyInput => exact (runSubStep_pins c .wait s).1.trans h.busyInput
  case opcode => rw [hop]; exact fun _ => h.opcode hr
  case operands => rw [hop, ha]; exact fun _ => h.operands hr
  case position => rw [hop, ha, hpc]; exact fun _ => h.position hr
  case entered => rw [hop, hpc, hsession]; exact fun _ => h.entered hr
  case session => rw [hop, ha, hpc, hsession]; exact fun _ => h.session hr
  case waiting => rw [currentSubStep, hop, ha, hpc]; exact fun _ _ => hsub
  case bounded =>
    intro n hn
    simp only [waitExpired, hn, decide_eq_false_iff_not, Nat.not_le] at hx
    rw [hwait, Nat.add_mul, Nat.one_mul]
    omega
  case aborted => rw [hrun, hr]; exact nofun

/-- The sub-step that is due keeps the invariant: it moves on, backs off, or aborts in a busy session state. -/
theorem runSubStep_inv (hb : 0 < c.backoffMs) (hsub : currentSubStep c s = some sub) : (runSubStep c sub s).InvOf c := by
  rcases runSubStep_succeeds_or_aborts c sub s with hs | ha
  · rcases hs.progress with ⟨hpc, hwait⟩ | ⟨rfl, hx, hpc, hwait⟩
    · refine advance_inv h hr hb hsub hs.running hpc ?_
      rcases hwait with hzero | ⟨hne, hsame⟩
      · exact hzero
      · -- outside a wait nothing has been counted
        rw [hsame]
        by_contra hcount
        have hat := h.waiting hr hcount
        rw [hsub, Option.some.injEq] at hat
        exact hne hat
    · exact backOff_inv h hr hsub hx hs.running hpc hwait
  · obtain ⟨hsession, -, -, -, hwait⟩ := ha.same
    obtain ⟨cause, -, hraised, -⟩ := ha.response
    have hbusy : BusyState s.op s.session := (walk_of_inv h hr hsub).1 (mayAbort_of_raisedBy hraised)
    refine inv_of_ready ha.running (runSubStep_chipSelect h) ((runSubStep_pins c sub s).1.trans h.busyInput) ?_ fun _ => ?_
    · rw [hwait]
      exact h.bounded
    · rw [hsession]
      exact hbusy.ne_idle

end SubStep

/-- Every step keeps the invariant, block reset included. -/
theorem stepOf_inv {c : Config} (hb : 0 < c.backoffMs) {s t : State} (h : s.InvOf c) (hstep : stepOf c s = .next t) :
    t.InvOf c := by
  rcases stepOf_cases hstep with ⟨r, rest, -, ⟨-, rfl⟩ | ⟨d, -, rfl⟩⟩ |
    ⟨-, ⟨hr, sub, hsub, rfl⟩ | ⟨-, -, -, rfl⟩ | ⟨hr, req, rest, -, htake⟩ | ⟨-, rfl⟩⟩
  · exact blockReset_inv hb _
  · exact blockReset_inv hb _
  · exact runSubStep_inv (inv_withInputs h s.reqs s.resetIn.tail) hr hb hsub
  · exact complete_inv (inv_withInputs h s.reqs s.resetIn.tail)
  · have hs := inv_withInputs h rest s.resetIn.tail
    rcases htake with ⟨code, rfl⟩ | ⟨hd, hidle, harea, hpointer, rfl⟩
    · exact refuse_inv hs hr code
    · have hops : operandsOk c (reqOpcode req) (reqOperands req) = true := by
        unfold operandsOk
        split_ifs with h3 h4
        · exact harea h3
        · exact hpointer h4
        · rfl
      exact accept_inv hb hs ((decodeHost_ok_iff _ _).mp hd) hops hidle
  · exact inv_withInputs h s.reqs.tail s.resetIn.tail

/-- A running block of the invariant has a step: its opcode is one of the five and `PC` is not past the end. -/
theorem stepOf_next_of_running {c : Config} {s : State} (h : s.InvOf c) (hn : NoReset s) (hr : s.running = true) :
    ∃ t, stepOf c s = .next t := by
  obtain ⟨i, hi⟩ := (decodeHost_ok_iff s.op s.a).mpr (h.opcode hr)
  rw [stepOf_latched hn hr hi, execOf_decoded hi]
  rcases hostOperation_cases c s.op s.a (decide (s.op ≠ opInit)) (operandsOk c s.op s.a) (microProgram c s.op s.a)
    (afterResetInput s) with ⟨-, he⟩ | ⟨sub, -, -, he⟩ | ⟨-, -, he⟩ | ⟨-, hpast, -⟩
  · exact ⟨_, he⟩
  · exact ⟨_, he⟩
  · exact ⟨_, he⟩
  · exact absurd (h.position hr) (Nat.not_le.mpr hpast)

/-- A ready block has a step in every state. -/
theorem stepOf_next_of_ready (c : Config) {s : State} (hn : NoReset s) (hr : s.running = false) : ∃ t, stepOf c s = .next t :=
  match hq : s.reqs with
  | some req :: _ => ⟨_, (stepOf_request hn hr hq).trans (takeWord_eq req hr)⟩
  | none :: _ => ⟨_, stepOf_nothingPresented hn hr hq⟩
  | [] => ⟨_, stepOf_noRequests hn hr hq⟩

/-- A state of the invariant has a next state. -/
theorem stepOf_next {c : Config} {s : State} (h : s.InvOf c) : ∃ t, stepOf c s = .next t := by
  have own (hn : NoReset s) : ∃ t, stepOf c s = .next t :=
    match hr : s.running with
    | true => stepOf_next_of_running h hn hr
    | false => stepOf_next_of_ready c hn hr
  match hl : s.resetIn with
  | [] => exact own (.inl hl)
  | .released :: rest => exact own (.inr ⟨rest, hl⟩)
  | .asserted :: rest => exact ⟨_, by rw [stepOf, hl]⟩
  | .duringSend d :: rest => exact ⟨_, by rw [stepOf, hl]⟩

/-- Settles O58: the state after reset, the next state, and what a step keeps. -/
theorem everyConfigurationKeepsItsInvariant : Obligations.EveryConfigurationKeepsItsInvariant := by
  refine fun c hb => ⟨resetOf_inv hb, fun s h => ?_⟩
  obtain ⟨t, ht⟩ := stepOf_next h
  exact ⟨t, ht, stepOf_inv hb h ht⟩

theorem epd_backoff_pos : 0 < Config.epd.backoffMs := by decide

/-- Settles O46: `resetOf_inv` for `Config.epd`. -/
theorem resetMeetsTheInvariant : Obligations.ResetMeetsTheInvariant := resetOf_inv epd_backoff_pos

/-- Settles O47: `stepOf_inv` for `Config.epd`. -/
theorem stepKeepsTheInvariant : Obligations.StepKeepsTheInvariant := fun _ _ h hstep => stepOf_inv epd_backoff_pos h hstep

/-- Settles O48: `stepOf_next` for `Config.epd`. -/
theorem invariantStatesNeverStop : Obligations.InvariantStatesNeverStop := fun _ h => stepOf_next h

/-- Settles O49: SESSION_STATE is written by the `STATE` sub-steps of the walk and by block reset. -/
theorem sessionStateMovesAlongItsEdges : Obligations.SessionStateMovesAlongItsEdges := by
  intro s t h hstep
  rw [step_eq] at hstep
  refine ⟨fun hn => ?_, fun hreset => ?_⟩
  · match hr : s.running with
    | false =>
      rcases stepOf_ready_cases hn hr hstep with ⟨req, rest, htake⟩ | ⟨rest, rfl⟩
      · rcases takeWord_refused_or_accepted (s := { afterResetInput s with reqs := rest }) hr htake with
          ⟨code, -, rfl⟩ | rfl <;> exact .inl rfl
      · exact .inl rfl
    | true =>
      rcases stepOf_running_cases hn hr hstep with ⟨sub, hsub, rfl⟩ | ⟨-, rfl⟩
      · rw [runSubStep_sessionAfter]
        by_cases hstate : ∃ y, sub = .state y
        · obtain ⟨y, rfl⟩ := hstate
          exact .inr ((walk_of_inv h hr hsub).2 y rfl)
        · exact .inl (sessionAfter_of_ne_state (fun y hy => hstate ⟨y, hy⟩) _)
      · exact .inl rfl
  · rcases stepOf_cases hstep with ⟨r, rest, -, ⟨-, rfl⟩ | ⟨d, -, rfl⟩⟩ | ⟨hn, -⟩
    · rfl
    · rfl
    · exact absurd hn hreset

end Sys2Proof.Proofs.Invariant
end

section
/-! Aborts (R161 to R166): what an abort leaves, which sub-step raises which cause, and what is accepted after one. -/

namespace Sys2Proof.Proofs.Aborts

open Sys2Proof Sys2Proof.Machine Sys2Proof.Claims
open Sys2Proof.Proofs.BusyWait (stepOf_subStep)
open Sys2Proof.Proofs.Sequencer (stepOf_running_cases requestIsTakenByTheThreeChecks step_accepts_init)
open Sys2Proof.Proofs.SubSteps (Aborted runSubStep_aborted runSubStep_pins)
open Sys2Proof.Proofs.Programs (init_of_mem)
open Sys2Proof.Proofs.SessionWalk (BusyState mayAbort_of_raisedBy walk_of_inv)
open Sys2Proof.Proofs.WaitPlacement (waitFollowsPointerAndRefreshOnly)

/-- A step by which a running block stops at a sub-step is that sub-step's abort. -/
theorem aborted_of_step {s t : State} {sub : SubStep} (hn : NoReset s) (hr : s.running = true)
    (hsub : currentSubStep Config.epd s = some sub) (h : step s = .next t) (ht : t.running = false) :
    t = runSubStep Config.epd sub (afterResetInput s) ∧ Aborted sub (afterResetInput s) t := by
  rw [step_eq, stepOf_subStep hn hr hsub, Host.Outcome.next.injEq] at h
  subst h
  exact ⟨rfl, runSubStep_aborted hr ht⟩

/-- Settles O34: an abort is a sub-step's, and leaves what `Aborted` says. -/
theorem abortChangesOnlyRunningAndResult : Obligations.AbortChangesOnlyRunningAndResult := by
  intro s t sub hn hr hsub h hstop
  obtain ⟨ht, ha⟩ := aborted_of_step hn hr hsub h hstop
  obtain ⟨hsession, hop, hoperands, hpc, hwait⟩ := ha.same
  obtain ⟨cause, es, -, hresult, htrace, hes⟩ := ha.response
  have hcs : t.lineCs = s.lineCs ∨ t.lineCs = .inactive := by
    rw [ht]
    exact (runSubStep_pins Config.epd sub (afterResetInput s)).2
  refine ⟨hsession, hpc, hop, hoperands, hwait, hcs, ha.lineRst, ha.lineDc, ?_⟩
  rw [hresult]
  exact ⟨rfl, rfl, es, htrace, fun ev hev => ⟨(hes ev hev).1, (hes ev hev).2.1⟩⟩

/-- A reset-line write belongs to INIT (R80, R133). -/
theorem init_of_rst {c : Config} {s : State} {l : Level} (h : currentSubStep c s = some (.rst l)) : s.op = 0x00 :=
  init_of_mem (List.mem_of_getElem? h) rfl nofun nofun

/-- A `WAIT` belongs to CLEAR, DISPLAY or SETPTR (R95). -/
theorem op_of_wait {c : Config} {s : State} (h : currentSubStep c s = some .wait) :
    s.op = 0x01 ∨ s.op = 0x02 ∨ s.op = 0x04 := by
  obtain ⟨-, -, -, hnone⟩ := waitFollowsPointerAndRefreshOnly c s.op s.a
  have hmem : .wait ∈ microProgram c s.op s.a := List.mem_of_getElem? h
  obtain ⟨i, hi⟩ := decodeHost_of_currentSubStep h
  rcases decodeHost_cases hi with ⟨hop, -⟩ | ⟨hop, -⟩ | ⟨hop, -⟩ | ⟨hop, -⟩ | ⟨hop, -⟩
  · exact absurd hmem (hnone (.inl hop))
  · exact .inl hop
  · exact .inr (.inl hop)
  · exact absurd hmem (hnone (.inr hop))
  · exact .inr (.inr hop)

/-- Settles O35: the cause is one its sub-step raises, and reset-line writes and waits belong to their operations. -/
theorem eachCauseHasItsSubStep : Obligations.EachCauseHasItsSubStep := by
  intro s t sub hn hr hsub h hstop
  obtain ⟨-, ha⟩ := aborted_of_step hn hr hsub h hstop
  obtain ⟨cause, -, hraised, hresult, -⟩ := ha.response
  rw [hresult]
  refine ⟨rfl, ?_⟩
  rcases hraised with ⟨rfl, hframe⟩ | ⟨rfl, hframe | ⟨l, rfl⟩⟩ | ⟨rfl, rfl⟩
  · exact .inl ⟨rfl, hframe⟩
  · exact .inr (.inl ⟨rfl, .inl hframe⟩)
  · exact .inr (.inl ⟨rfl, .inr ⟨init_of_rst hsub, l, rfl⟩⟩)
  · exact .inr (.inr ⟨rfl, rfl, op_of_wait hsub⟩)

/-- Settles O36: a sub-step that aborts stands where the session is busy, and the abort leaves SESSION_STATE. -/
theorem abortedOperationLeavesItsBusyState : Obligations.AbortedOperationLeavesItsBusyState := by
  intro s t h hn hr hstep hstop hcls
  rcases stepOf_running_cases hn hr (step_eq s ▸ hstep) with ⟨sub, hsub, -⟩ | ⟨-, rfl⟩
  · obtain ⟨-, ha⟩ := aborted_of_step hn hr hsub hstep hstop
    obtain ⟨hsession, -⟩ := ha.same
    obtain ⟨cause, -, hraised, -⟩ := ha.response
    have hbusy : BusyState s.op s.session := (walk_of_inv h hr hsub).1 (mayAbort_of_raisedBy hraised)
    rw [hsession]
    exact hbusy
  · exact absurd rfl hcls

/-- Settles O38: after an abort the session is not Idle, so the state check refuses all but INIT. -/
theorem afterAnAbortOnlyInitIsAccepted : Obligations.AfterAnAbortOnlyInitIsAccepted := by
  intro s req rest h hn hr hcls hq
  have hsession : s.session ≠ .idle := h.aborted hr hcls
  refine ⟨fun hop => ⟨reqOperands req, step_accepts_init hn hr hq hop⟩, fun hpos hle => ?_⟩
  have hop : req.extractLsb' 64 8 ≠ (0 : Byte) := by
    intro hz
    rw [hz] at hpos
    cases hpos
  rw [requestIsTakenByTheThreeChecks s req rest hn hr hq, if_neg (Nat.not_lt.mpr hle), if_pos ⟨hop, hsession⟩]

end Sys2Proof.Proofs.Aborts
end

section
/-! What a step adds to the trace (R9, R52, R170): responses and events, and where they come from; then block reset and the
status. -/

namespace Sys2Proof.Proofs.Reports

open Sys2Proof Sys2Proof.Machine Sys2Proof.Claims
open Sys2Proof.Proofs.BusyWait (stepOf_trace)
open Sys2Proof.Proofs.FramePairs (getElem?_append_eq_some_cases)
open Sys2Proof.Proofs.Sequencer (stepOf_running_cases stepOf_ready_cases takeWord_refused_or_accepted)
open Sys2Proof.Proofs.SubSteps (RaisedBy runSubStep_succeeds_or_aborts)
open Sys2Proof.Proofs.Programs (init_of_mem configSequence_isFrame initProgram_eq)
open Sys2Proof.Proofs.Aborts (op_of_wait)

/-- Settles O52: of every configuration's step. -/
theorem traceOnlyGrows : Obligations.TraceOnlyGrows := fun _ _ h => stepOf_trace h

/-- No response and no event of R170. -/
def Silent (es : List Event) : Prop := ∀ ev ∈ es, (∀ e, ev ≠ .event e) ∧ ∀ cls code, ev ≠ .response cls code

/-- Where a response of a step comes from: an abort, a completion, or a refusal (R138, R139, R164). -/
def ResponseOf (c : Config) (s : State) (cls : RespClass) (code : RespCode) : Prop :=
  (∃ sub, currentSubStep c s = some sub ∧ RaisedBy sub code ∧ cls = classOf s.op) ∨ (cls = .ok ∧ code = .ok) ∨
    (cls = .refused ∧ (code = .op ∨ code = .state ∨ code = .param))

/-- What a step adds to the trace: nothing the host is told; the events of a sub-step that succeeds; or a response, last, with
which the operation ends or is refused. -/
theorem stepOf_reports {c : Config} {s t : State} {es : List Event} (h : stepOf c s = .next t) (ht : t.trace = s.trace ++ es) :
    Silent es ∨
    (∃ sub, s.running = true ∧ currentSubStep c s = some sub ∧ (∀ cls code, .response cls code ∉ es) ∧
      ∀ e, .event e ∈ es → sub = .emit e) ∨
    (∃ cls code before, ResponseOf c s cls code ∧ es = before ++ [.response cls code] ∧ Silent before ∧
      t.result = ⟨true, cls, code⟩ ∧ t.running = false) := by
  have hsame (he : t.trace = s.trace) : Silent es := by
    rw [he, List.self_eq_append_right] at ht
    simp [ht, Silent]
  rcases stepOf_cases h with ⟨r, rest, -, ⟨-, rfl⟩ | ⟨d, -, rfl⟩⟩ | ⟨hn, -⟩
  · exact .inl (hsame rfl)
  · obtain ⟨es', ht', -, -, hes⟩ := cutFrame_trace c d { s with resetIn := rest }
    obtain rfl : es = es' := List.append_cancel_left (ht.symm.trans ht')
    refine .inl ?_
    rcases hes with rfl | ⟨l, rfl⟩ | ⟨l, bytes, n, -, rfl⟩ <;> simp [Silent]
  match hr : s.running with
  | true =>
    rcases stepOf_running_cases hn hr h with ⟨sub, hsub, rfl⟩ | ⟨-, rfl⟩
    · rcases runSubStep_succeeds_or_aborts c sub (afterResetInput s) with hs | ha
      · obtain ⟨es', ht', hresp, hevent⟩ := hs.trace
        obtain rfl : es = es' := List.append_cancel_left (ht.symm.trans ht')
        exact .inr (.inl ⟨sub, rfl, hsub, hresp, hevent⟩)
      · obtain ⟨cause, es', hraised, hresult, ht', hes⟩ := ha.response
        rw [List.append_assoc] at ht'
        obtain rfl : es = es' ++ [.response (classOf s.op) cause] := List.append_cancel_left (ht.symm.trans ht')
        exact .inr (.inr ⟨_, cause, es', .inl ⟨sub, hsub, hraised, rfl⟩, rfl, fun ev hev => ⟨(hes ev hev).1, (hes ev hev).2.2⟩,
          hresult, ha.running⟩)
    · obtain rfl : es = [.response .ok .ok] := List.append_cancel_left (ht.symm.trans rfl)
      exact .inr (.inr ⟨.ok, .ok, [], .inr (.inl ⟨rfl, rfl⟩), rfl, by simp [Silent], rfl, rfl⟩)
  | false =>
    rcases stepOf_ready_cases hn hr h with ⟨req, rest, htake⟩ | ⟨rest, rfl⟩
    · rcases takeWord_refused_or_accepted (s := { afterResetInput s with reqs := rest }) hr htake with ⟨code, hcode, rfl⟩ | rfl
      · obtain rfl : es = [.response .refused code] := List.append_cancel_left (ht.symm.trans rfl)
        exact .inr (.inr ⟨.refused, code, [], .inr (.inr ⟨rfl, hcode⟩), rfl, by simp [Silent], rfl, hr⟩)
      · exact .inl (hsame rfl)
    · exact .inl (hsame rfl)

/-- The words of R52 that occur; INIT has no `WAIT`, so InitError never comes with TIMEOUT. -/
theorem rsp_mem_of_responseOf {c : Config} {s : State} {cls : RespClass} {code : RespCode} (h : ResponseOf c s cls code) :
    rsp cls code ∈ ([0x00, 0x11, 0x12, 0x21, 0x22, 0x23, 0x34, 0x35, 0x36] : List Byte) := by
  rcases h with ⟨sub, hsub, hraised, rfl⟩ | ⟨rfl, rfl⟩ | ⟨rfl, rfl | rfl | rfl⟩
  · have hclass : classOf s.op = .initError ∧ s.op = 0x00 ∨ classOf s.op = .ioError := by
      by_cases hop : s.op = opInit
      · exact .inl ⟨if_pos hop, hop⟩
      · exact .inr (if_neg hop)
    rcases hraised with ⟨rfl, -⟩ | ⟨rfl, -⟩ | ⟨rfl, rfl⟩ <;> rcases hclass with ⟨hcls, hop⟩ | hcls <;> rw [hcls]
    · decide
    · decide
    · decide
    · decide
    · rcases op_of_wait hsub with hop' | hop' | hop' <;> rw [hop] at hop' <;> cases hop'
    · decide
  all_goals decide

/-- Settles O50: a response of a step is the last thing it adds, and comes from an abort, a completion or a refusal. -/
theorem responsesAreLegalWords : Obligations.ResponsesAreLegalWords := by
  intro s t es cls code h ht hmem
  rcases stepOf_reports (step_eq s ▸ h) ht with hsilent | ⟨sub, -, -, hno, -⟩ |
    ⟨cls', code', before, hof, rfl, hsilent, hresult, hstop⟩
  · exact absurd rfl ((hsilent _ hmem).2 cls code)
  · exact absurd hmem (hno cls code)
  · rcases List.mem_append.mp hmem with hbefore | hlast
    · exact absurd rfl ((hsilent _ hbefore).2 cls code)
    · obtain ⟨rfl, rfl⟩ : cls = cls' ∧ code = code' := by simpa using hlast
      exact ⟨rsp_mem_of_responseOf hof, hresult, hstop⟩

/-- The two EMIT sub-steps of INIT (R133). -/
theorem initProgram_emit {c : Config} {k : Nat} {e : Notice} (h : (initProgram c)[k]? = some (.emit e)) :
    e = .reset ∧ k = 5 ∨ e = .ready ∧ k = 22 := by
  rw [initProgram_eq] at h
  rcases getElem?_append_eq_some_cases h with hpulse | ⟨n, rfl, hn⟩
  · rcases k with _ | _ | _ | _ | _ | _ | _ | k <;> cases hpulse
    exact .inl ⟨rfl, rfl⟩
  · rcases getElem?_append_eq_some_cases hn with hconfig | ⟨m, rfl, hm⟩
    · cases configSequence_isFrame c _ (List.mem_of_getElem? hconfig)
    · rcases m with _ | _ | m <;> cases hm
      exact .inr ⟨rfl, rfl⟩

/-- Settles O51: an event comes from an EMIT, and the only ones stand in INIT. -/
theorem eventsComeOnlyFromInit : Obligations.EventsComeOnlyFromInit := by
  intro s t es e h ht hmem
  rcases stepOf_reports (step_eq s ▸ h) ht with hsilent | ⟨sub, hr, hsub, -, hemit⟩ | ⟨cls, code, before, -, rfl, hsilent, -⟩
  · exact absurd rfl ((hsilent _ hmem).1 e)
  · obtain rfl := hemit e hmem
    have hop : s.op = opInit := init_of_mem (List.mem_of_getElem? hsub) rfl nofun nofun
    rw [currentSubStep, hop] at hsub
    exact ⟨hr, hop, initProgram_emit hsub⟩
  · rcases List.mem_append.mp hmem with hbefore | hlast
    · exact absurd rfl ((hsilent _ hbefore).1 e)
    · simp at hlast

/-! ### Block reset (R190, R192) and the status (R20, R22) -/

/-- Settles O44: the fields of the state after reset. -/
theorem resetLeavesAnIdlePort : Obligations.ResetLeavesAnIdlePort :=
  ⟨rfl, rfl, rfl, rfl, rfl, rfl, rfl, rfl, rfl, rfl⟩

/-- Settles O45: block reset keeps the inputs and the trace, to which a frame that is cut adds its line event and its cut. -/
theorem blockResetStopsEverything : Obligations.BlockResetStopsEverything := by
  intro s r rest hl hne
  cases r with
  | released => exact absurd rfl hne
  | asserted =>
    refine ⟨blockReset Config.epd { s with resetIn := rest }, [], by rw [step_eq, stepOf, hl], (List.append_nil _).symm, rfl, rfl,
      rfl, rfl, rfl, rfl, rfl, rfl, rfl, rfl, rfl, nofun, fun _ => rfl⟩
  | duringSend d =>
    obtain ⟨es, ht, hreqs, hreset, hes⟩ := cutFrame_trace Config.epd d { s with resetIn := rest }
    refine ⟨blockReset Config.epd (cutFrame Config.epd d { s with resetIn := rest }), es, by rw [step_eq, stepOf, hl], ht, rfl,
      rfl, rfl, rfl, rfl, rfl, rfl, rfl, rfl, hreqs, hreset, ?_, nofun⟩
    rcases hes with rfl | ⟨l, rfl⟩ | ⟨l, bytes, n, hn, rfl⟩
    · simp
    · simp
    · simpa using hn

/-- Settles O54: the codes of each register, and `req_ready` and NeedsInit as RUNNING and SESSION_STATE give them. -/
theorem hostReadsTheStatus : Obligations.HostReadsTheStatus := by
  intro s
  exact ⟨rfl, by simp [State.reqReady], by simp [State.needsInit]⟩

end Sys2Proof.Proofs.Reports
end

section
/-! Reset-line writes (R80, R83) and the busy wait of any configuration (R90, R93, R94), iteration by iteration. -/

namespace Sys2Proof.Proofs.BoundedWait

open Sys2Proof Sys2Proof.Machine Sys2Proof.Claims
open Sys2Proof.Proofs.BusyWait (stepOf_subStep)

/-! ### Reset-line writes -/

theorem rstStep_driven {l : Level} {s : State} {ps : List Answer} (hp : s.pinAnswers = .ok :: ps) :
    rstStep l s =
      { s with lineRst := l, pc := s.pc + 1, pinAnswers := ps, trace := s.trace ++ [.pinWrite .rst l] } := by
  simp [rstStep, pinWrite, pinAnswer_listed hp, State.setLine, State.log, State.advance]

theorem rstStep_fault {l : Level} {s : State} {ps : List Answer} (hp : s.pinAnswers = .fault :: ps) :
    rstStep l s =
      { s with
        lineRst := Config.freeLevel s.draws, running := false, result := ⟨true, classOf s.op, .gpio⟩
        pinAnswers := ps, draws := s.draws + 1
        trace := s.trace ++ [.pinWriteFault .rst l, .response (classOf s.op) .gpio] } := by
  simp [rstStep, pinWrite, pinAnswer_listed hp, abort, State.respond, State.setLine, State.log, State.drawn]

/-- Settles O29: the step is the reset-line write. -/
theorem resetLineIsDrivenOrAborts : Obligations.ResetLineIsDrivenOrAborts := by
  intro s l ps hn hr hsub
  have hstep : step s = .next (rstStep l (afterResetInput s)) := stepOf_subStep hn hr hsub
  refine ⟨fun hp => ?_, fun hp => ⟨Config.freeLevel s.draws, s.draws + 1, ?_⟩⟩
  · have hp' : (afterResetInput s).pinAnswers = .ok :: ps := hp
    rw [hstep, rstStep_driven hp']
    rfl
  · have hp' : (afterResetInput s).pinAnswers = .fault :: ps := hp
    rw [hstep, rstStep_fault hp']
    rfl

/-! ### One iteration of the wait -/

theorem waitExpired_iff (c : Config) (n : Nat) :
    waitExpired c n = true ↔ ∃ t, c.busyTimeoutMs = some t ∧ t ≤ n * c.backoffMs := by
  unfold waitExpired
  split <;> simp [*]

/-- A wait that reads busy times out when the bound is reached, and backs off otherwise. -/
theorem waitStep_busy {c : Config} {s : State} {bs : List Level} (h : s.busyLevels = .high :: bs) :
    waitStep c s =
      if ∃ t, c.busyTimeoutMs = some t ∧ t ≤ s.waitCnt * c.backoffMs then
        { s with
          running := false, result := ⟨true, abortClass s.op, .timeout⟩, busyLevels := bs
          trace := s.trace ++ [.busyRead .high, .response (abortClass s.op) .timeout] }
      else
        { s with
          waitCnt := s.waitCnt + 1, busyLevels := bs, trace := s.trace ++ [.busyRead .high, .delay c.backoffMs] } := by
  split
  · next hreached =>
    rw [waitStep_expired h ((waitExpired_iff c s.waitCnt).mpr hreached)]
    rfl
  · next hbelow =>
    rw [← waitExpired_iff, ← ne_eq, ← Bool.eq_false_iff] at hbelow
    rw [waitStep_backOff h hbelow]

/-- The bound test of `Config.epd`: 5000 ms, 50 ms each. -/
theorem epd_bound_iff (n : Nat) : (∃ t, Config.epd.busyTimeoutMs = some t ∧ t ≤ n * Config.epd.backoffMs) ↔ 5000 ≤ n * 50 :=
  ⟨fun ⟨_, ht, hle⟩ => Option.some.inj ht ▸ hle, fun h => ⟨5000, rfl, h⟩⟩

/-- Settles O31: the step is one iteration of the wait, and that is `waitStep_busy`. -/
theorem busyWaitBacksOffOrTimesOut : Obligations.BusyWaitBacksOffOrTimesOut := by
  refine ⟨fun s bs hn hr hsub hl => ?_, fun c s bs hl => waitStep_busy hl⟩
  have hl' : (afterResetInput s).busyLevels = .high :: bs := hl
  have hstep : step s = .next (waitStep Config.epd (afterResetInput s)) := stepOf_subStep hn hr hsub
  rw [hstep, waitStep_busy hl']
  congr 1
  exact if_congr (epd_bound_iff s.waitCnt) rfl rfl

/-! ### Several iterations -/

/-- `s` after `k` iterations that read busy and back off, with the busy levels `bs` still listed. -/
def waited (c : Config) (k : Nat) (bs : List Level) (s : State) : State :=
  { s with
    waitCnt := s.waitCnt + k, busyLevels := bs
    trace := s.trace ++ (List.replicate k [Event.busyRead .high, .delay c.backoffMs]).flatten }

theorem waited_succ (c : Config) (k : Nat) (bs bs' : List Level) (s : State) :
    waited c k bs (waited c 1 bs' s) = waited c (k + 1) bs s := by
  simp [waited, List.replicate_succ, Nat.add_comm, Nat.add_left_comm]

/-- While the bound is not reached, `k` busy levels take the wait through `k` iterations. -/
theorem waitStep_iterate_busy {c : Config} {k : Nat} {s : State} {bs : List Level}
    (hl : s.busyLevels = List.replicate k .high ++ bs) (hx : ∀ j < k, waitExpired c (s.waitCnt + j) = false) :
    (waitStep c)^[k] s = waited c k bs s := by
  induction k generalizing s with
  | zero =>
    obtain rfl : s.busyLevels = bs := hl
    simp [waited]
  | succ k ih =>
    have hcons : s.busyLevels = .high :: (List.replicate k .high ++ bs) := by
      rw [hl, List.replicate_succ, List.cons_append]
    have hfirst : waitStep c s = waited c 1 (List.replicate k .high ++ bs) s := by
      rw [waitStep_backOff hcons (hx 0 (Nat.succ_pos k))]
      simp [waited]
    rw [Function.iterate_succ_apply, hfirst, ih rfl fun j hj => ?_, waited_succ]
    have := hx (j + 1) (Nat.succ_lt_succ hj)
    rwa [Nat.add_comm j 1, ← Nat.add_assoc] at this

/-- Settles O33: without a bound none is reached. -/
theorem unboundedWaitGoesOn : Obligations.UnboundedWaitGoesOn := by
  intro c k s bs hc hl
  exact waitStep_iterate_busy hl fun j _ => by simp [waitExpired, hc]

/-- The bound is reached after exactly `N = ceil(T / BACKOFF_MS)` delays (R93). -/
theorem waitExpired_iff_ceil {c : Config} {timeout n : Nat} (hc : c.busyTimeoutMs = some timeout) (hb : 0 < c.backoffMs)
    (hn : n = (timeout + c.backoffMs - 1) / c.backoffMs) (j : Nat) : waitExpired c j = true ↔ n ≤ j := by
  rw [waitExpired, hc, decide_eq_true_iff, hn, Nat.div_le_iff_le_mul_add_pred hb, Nat.mul_comm]
  omega

/-- Settles O32: before `N` delays the wait backs off; then it ends at an idle read or times out. -/
theorem boundedWaitTimesOutAfterItsReads : Obligations.BoundedWaitTimesOutAfterItsReads := by
  intro c timeout n s bs hc hb hn hzero
  have hexpired := waitExpired_iff_ceil hc hb hn
  have hrun {j : Nat} {bs : List Level} (hj : j ≤ n) (hl : s.busyLevels = List.replicate j .high ++ bs) :
      (waitStep c)^[j] s = waited c j bs s :=
    waitStep_iterate_busy hl fun k hk => by
      rw [hzero, Nat.zero_add, Bool.eq_false_iff, ne_eq, hexpired]
      omega
  refine ⟨fun j hj hl => ?_, fun hl => ?_⟩
  · rw [Function.iterate_succ_apply', hrun hj hl, waitStep_idle rfl]
    simp [waited, hzero]
  · have hl' : s.busyLevels = List.replicate n .high ++ .high :: bs := by
      rw [hl, List.replicate_succ', List.append_assoc, List.singleton_append]
    have hx : waitExpired c (waited c n (.high :: bs) s).waitCnt = true := by
      rw [hexpired, waited, hzero, Nat.zero_add]
    rw [Function.iterate_succ_apply', hrun (Nat.le_refl n) hl', waitStep_expired rfl hx]
    simp [waited, hzero]
    rfl

end Sys2Proof.Proofs.BoundedWait
end

section
/-! Runs of a micro-program in which the environment answers `ok` and idle (R131, R132): the state they lead to, as a fold over
the sub-steps. -/

namespace Sys2Proof.Proofs.PassedRuns

open Sys2Proof Sys2Proof.Machine Sys2Proof.Claims
open Sys2Proof.Proofs.BoundedWait (rstStep_driven)

/-! ### One sub-step that succeeds -/

/-- The registers that sub-steps write, but for `PC`, which counts them. -/
structure Regs where
  session : SessionState
  waitCnt : Nat
  lineRst : Level
  lineDc : Level
  lineCs : ChipSelect

/-- Those registers after a sub-step that succeeds. -/
def regsAfter (c : Config) (r : Regs) : SubStep → Regs
  | .state x => { r with session := x }
  | .rst l => { r with lineRst := l }
  | .hold _ => r
  | .cmd _ _ => { r with lineDc := c.dcCmdLevel, lineCs := .inactive }
  | .data _ _ => { r with lineDc := c.dcCmdLevel.other, lineCs := .inactive }
  | .wait => { r with waitCnt := 0 }
  | .emit _ => r

/-- The events of a sub-step that succeeds. -/
def okEvents (c : Config) : SubStep → List Event
  | .state _ => []
  | .rst l => [.pinWrite .rst l]
  | .hold ms => [.delay ms]
  | .cmd _ b => cFrame c b
  | .data _ bytes => dFrame c bytes
  | .wait => [.busyRead .low]
  | .emit e => [.event e]

/-- A sub-step that writes an output pin. -/
def writesPin : SubStep → Bool
  | .rst _ => true
  | .cmd _ _ => true
  | .data _ _ => true
  | _ => false

/-- The environment answers every pin write and every send of the sub-steps `l` with `ok` and every busy read with idle; after
them `ps`, `ss` and `bs` are still listed. -/
structure Answered (l : List SubStep) (ps ss : List Answer) (bs : List Level) (s : State) : Prop where
  pins : s.pinAnswers = List.replicate (l.countP writesPin) .ok ++ ps
  sends : s.sendAnswers = List.replicate (l.countP SubStep.isFrame) .ok ++ ss
  levels : s.busyLevels = List.replicate (l.count .wait) .low ++ bs

/-- The state with other values in the registers that sub-steps write. -/
def withRegs (s : State) (r : Regs) : State :=
  { s with session := r.session, waitCnt := r.waitCnt, lineRst := r.lineRst, lineDc := r.lineDc, lineCs := r.lineCs }

/-- The registers of a state that sub-steps write. -/
def regs (s : State) : Regs := ⟨s.session, s.waitCnt, s.lineRst, s.lineDc, s.lineCs⟩

/-- `s` after the sub-steps `l`, all of which have succeeded. -/
def passed (c : Config) (l : List SubStep) (ps ss : List Answer) (bs : List Level) (s : State) : State :=
  { withRegs s (l.foldl (regsAfter c) (regs s)) with
    pc := s.pc + l.length, pinAnswers := ps, sendAnswers := ss, busyLevels := bs
    trace := s.trace ++ l.flatMap (okEvents c) }

theorem passed_nil {c : Config} {ps ss : List Answer} {bs : List Level} {s : State} (h : Answered [] ps ss bs s) :
    passed c [] ps ss bs s = s := by
  obtain ⟨hp, hs, hb⟩ := h
  obtain rfl : s.pinAnswers = ps := hp
  obtain rfl : s.sendAnswers = ss := hs
  obtain rfl : s.busyLevels = bs := hb
  simp [passed, withRegs, regs]

theorem passed_cons (c : Config) (sub : SubStep) (l : List SubStep) (ps ps' ss ss' : List Answer) (bs bs' : List Level)
    (s : State) : passed c l ps ss bs (passed c [sub] ps' ss' bs' s) = passed c (sub :: l) ps ss bs s := by
  simp [passed, withRegs, regs, Nat.add_comm, Nat.add_left_comm]

/-- A sub-step whose answers are `ok` and idle succeeds. -/
theorem runSubStep_passed {c : Config} {sub : SubStep} {s : State} {ps ss : List Answer} {bs : List Level}
    (h : Answered [sub] ps ss bs s) : runSubStep c sub s = passed c [sub] ps ss bs s := by
  obtain ⟨hp, hs, hb⟩ := h
  cases sub with
  | state x =>
    obtain ⟨rfl, rfl, rfl⟩ : s.pinAnswers = ps ∧ s.sendAnswers = ss ∧ s.busyLevels = bs := ⟨hp, hs, hb⟩
    simp [runSubStep, stateStep, State.advance, passed, withRegs, regs, regsAfter, okEvents]
  | hold ms =>
    obtain ⟨rfl, rfl, rfl⟩ : s.pinAnswers = ps ∧ s.sendAnswers = ss ∧ s.busyLevels = bs := ⟨hp, hs, hb⟩
    rfl
  | emit e =>
    obtain ⟨rfl, rfl, rfl⟩ : s.pinAnswers = ps ∧ s.sendAnswers = ss ∧ s.busyLevels = bs := ⟨hp, hs, hb⟩
    rfl
  | rst l =>
    obtain ⟨rfl, rfl⟩ : s.sendAnswers = ss ∧ s.busyLevels = bs := ⟨hs, hb⟩
    rw [runSubStep, rstStep_driven hp]
    rfl
  | cmd op b =>
    obtain rfl : s.busyLevels = bs := hb
    rw [runSubStep, sendFrame_sent hp hs]
    rfl
  | data op bytes =>
    obtain rfl : s.busyLevels = bs := hb
    rw [runSubStep, sendFrame_sent hp hs]
    rfl
  | wait =>
    obtain ⟨rfl, rfl⟩ : s.pinAnswers = ps ∧ s.sendAnswers = ss := ⟨hp, hs⟩
    rw [runSubStep, waitStep_idle hb]
    rfl

/-- The answers to the first sub-step, and to the others after it. -/
theorem Answered.cons {c : Config} {sub : SubStep} {l : List SubStep} {ps ss : List Answer} {bs : List Level} {s : State}
    (h : Answered (sub :: l) ps ss bs s) :
    ∃ ps' ss' bs', Answered [sub] ps' ss' bs' s ∧ Answered l ps ss bs (passed c [sub] ps' ss' bs' s) := by
  refine ⟨List.replicate (l.countP writesPin) .ok ++ ps, List.replicate (l.countP SubStep.isFrame) .ok ++ ss,
    List.replicate (l.count .wait) .low ++ bs, ⟨?_, ?_, ?_⟩, ⟨rfl, rfl, rfl⟩⟩
  · rw [h.pins, ← List.append_assoc, List.replicate_append_replicate, ← List.countP_append]
    rfl
  · rw [h.sends, ← List.append_assoc, List.replicate_append_replicate, ← List.countP_append]
    rfl
  · rw [h.levels, ← List.append_assoc, List.replicate_append_replicate, ← List.count_append]
    rfl

/-! ### Runs -/

/-- `f` executes the micro-program `mp` of a block with the configuration `c` from states with `P`, and keeps `P`. -/
structure Executes (c : Config) (f : State → Outcome) (P : State → Prop) (mp : List SubStep) : Prop where
  subStep : ∀ {s sub}, P s → s.running = true → mp[s.pc]? = some sub → f s = .next (runSubStep c sub s)
  keeps : ∀ {s sub}, P s → P (runSubStep c sub s)

/-- The block runs, and of the micro-program `mp` the sub-steps `l` are still to be executed. -/
structure Due (mp l : List SubStep) (s : State) : Prop where
  running : s.running = true
  rest : mp.drop s.pc = l

theorem Due.head {mp l : List SubStep} {sub : SubStep} {s : State} (h : Due mp (sub :: l) s) : mp[s.pc]? = some sub := by
  rw [← Nat.add_zero s.pc, ← List.getElem?_drop, h.rest]
  rfl

theorem Due.passed {mp l rest : List SubStep} {s : State} (h : Due mp (l ++ rest) s) (c : Config) (ps ss : List Answer)
    (bs : List Level) : Due mp rest (passed c l ps ss bs s) where
  running := h.running
  rest := by
    show mp.drop (s.pc + l.length) = rest
    rw [← List.drop_drop, h.rest, List.drop_left]

/-- Sub-steps whose answers are `ok` and idle are executed one after the other. -/
theorem Executes.passes {c : Config} {f : State → Outcome} {P : State → Prop} {mp : List SubStep} (h : Executes c f P mp)
    {l rest : List SubStep} {ps ss : List Answer} {bs : List Level} {s : State} (hP : P s) (hdue : Due mp (l ++ rest) s)
    (ha : Answered l ps ss bs s) :
    iterate f l.length s = .next (passed c l ps ss bs s) ∧ P (passed c l ps ss bs s) := by
  induction l generalizing s with
  | nil =>
    rw [passed_nil ha]
    exact ⟨rfl, hP⟩
  | cons sub l ih =>
    obtain ⟨ps', ss', bs', hsub, hrest⟩ := ha.cons (c := c)
    have hfirst := h.subStep hP hdue.running hdue.head
    have hkeep := h.keeps (sub := sub) hP
    rw [runSubStep_passed hsub] at hfirst hkeep
    have hdue' : Due mp (l ++ rest) (passed c [sub] ps' ss' bs' s) := Due.passed (l := [sub]) hdue c ps' ss' bs'
    rw [List.length_cons, iterate_succ hfirst, ← passed_cons c sub l ps ps' ss ss' bs bs' s]
    exact ih hkeep hdue' hrest

end Sys2Proof.Proofs.PassedRuns
end

section
/-! The five host operations run to completion (R133 to R138), and INIT to a bus fault (R75). -/

namespace Sys2Proof.Proofs.WholeOperations

open Sys2Proof Sys2Proof.Machine Sys2Proof.Claims
open Sys2Proof.Proofs.BoundedWait (waited waited_succ waitExpired_iff_ceil)
open Sys2Proof.Proofs.PassedRuns
open Sys2Proof.Proofs.Programs (initProgram_eq clearProgram_eq clearProgramWritesRowByRow fillRow_ne_nil memWrite_eq
  init_of_mem)
open Sys2Proof.Proofs.Sequencer (execOf_decoded operandsOk_epd step_accepts_init takeRequest_decide)
open Sys2Proof.Proofs.WireFrames (lut_toList_ne_nil)

/-- The meaning of a host operation executes its micro-program from every state. -/
theorem executes_exec {op : Byte} {a : Operands} {i : Instr} (hi : decodeHost op a = .ok i) :
    Executes Config.epd (exec i) (fun _ => True) (microProgram Config.epd op a) where
  subStep _ hr hsub := exec_subStep hi hr hsub
  keeps _ := trivial

/-- A request that passes the checks is accepted. -/
theorem exec_accepts {op : Byte} {a : Operands} {i : Instr} {s : State} (hi : decodeHost op a = .ok i) (hr : s.running = false)
    (hidle : op = opInit ∨ s.session = .idle) (hops : operandsOk Config.epd op a = true) :
    exec i s = .next (accepted op a s) := by
  have hlegal : ¬ (op ≠ opInit ∧ s.session ≠ .idle) := fun h => hidle.elim h.1 h.2
  rw [exec_eq, execOf_decoded hi, hostOperation, hr, if_neg Bool.false_ne_true, takeRequest_decide, if_neg hlegal, if_pos hops]
  rfl

/-- The state in which an operation that was accepted in `s` has completed: `n` sub-steps have left the registers `r` and added
the events `evs`, and `ps`, `ss` and `bs` are still listed. -/
def finished (op : Byte) (a : Operands) (n : Nat) (r : Regs) (ps ss : List Answer) (bs : List Level) (evs : List Event)
    (s : State) : State :=
  { withRegs s r with
    running := false, op := op, a := a, pc := n, result := ⟨true, .ok, .ok⟩
    pinAnswers := ps, sendAnswers := ss, busyLevels := bs, trace := s.trace ++ evs ++ [.response .ok .ok] }

/-- The registers of an accepted request. -/
def acceptedRegs (s : State) : Regs := { regs s with waitCnt := 0 }

theorem complete_passed (c : Config) (op : Byte) (a : Operands) (l : List SubStep) (ps ss : List Answer) (bs : List Level)
    (s : State) :
    complete (passed c l ps ss bs (accepted op a s)) =
      finished op a l.length (l.foldl (regsAfter c) (acceptedRegs s)) ps ss bs (l.flatMap (okEvents c)) s := by
  simp [complete, State.respond, passed, finished, withRegs, accepted, acceptedRegs, regs]

/-- The default bound leaves room for 100 delays (R93). -/
theorem epd_not_expired {j k : Nat} (hk : k ≤ 100) (hj : j < k) : waitExpired Config.epd j = false := by
  have hexpired := waitExpired_iff_ceil (c := Config.epd) (timeout := 5000) (n := 100) rfl (by decide) (by decide) j
  rw [Bool.eq_false_iff, ne_eq, hexpired]
  omega

theorem regsAfter_waitCnt (c : Config) {r : Regs} (h : r.waitCnt = 0) (sub : SubStep) : (regsAfter c r sub).waitCnt = 0 := by
  cases sub <;> simp [regsAfter, h]

/-- Sub-steps that succeed do not count. -/
theorem foldl_regsAfter_waitCnt {c : Config} {l : List SubStep} {r : Regs} (h : r.waitCnt = 0) :
    (l.foldl (regsAfter c) r).waitCnt = 0 := by
  induction l generalizing r with
  | nil => exact h
  | cons sub rest ih => exact ih (regsAfter_waitCnt c h sub)

section Run

variable {op : Byte} {a : Operands} {i : Instr} {s : State} {ps ss : List Answer} {bs : List Level}
  (hi : decodeHost op a = .ok i) (hacc : exec i s = .next (accepted op a s))
include hi hacc

/-- An accepted request runs through sub-steps whose answers are `ok` and idle. -/
theorem execTimes_accepted {l rest : List SubStep} (hmp : microProgram Config.epd op a = l ++ rest)
    (hans : Answered l ps ss bs s) :
    execTimes i (l.length + 1) s = .next (passed Config.epd l ps ss bs (accepted op a s)) := by
  have hdue : Due (microProgram Config.epd op a) (l ++ rest) (accepted op a s) := ⟨rfl, hmp⟩
  have hans' : Answered l ps ss bs (accepted op a s) := ⟨hans.pins, hans.sends, hans.levels⟩
  obtain ⟨hrun, -⟩ := (executes_exec hi).passes trivial hdue hans'
  rw [execTimes_succ hacc]
  exact hrun

/-- A request whose answers are all `ok` and idle runs from acceptance to completion. -/
theorem execTimes_whole {mp : List SubStep} {r : Regs} {evs : List Event} (hmp : microProgram Config.epd op a = mp)
    (hans : Answered mp ps ss bs s) (hregs : mp.foldl (regsAfter Config.epd) (acceptedRegs s) = r)
    (hevs : mp.flatMap (okEvents Config.epd) = evs) :
    execTimes i (mp.length + 2) s = .next (finished op a mp.length r ps ss bs evs s) := by
  subst hmp hregs hevs
  have hrun := execTimes_accepted hi hacc (List.append_nil _).symm hans
  have hend := exec_end (s := passed Config.epd (microProgram Config.epd op a) ps ss bs (accepted op a s)) hi rfl (Nat.zero_add _)
  rw [complete_passed] at hend
  exact (execTimes_add hrun 1).trans (execTimes_succ hend 0)

omit hacc in
/-- At a `WAIT`, busy levels below the bound take the operation through as many iterations. -/
theorem execTimes_waits {rest : List SubStep} {k : Nat} (hdue : Due (microProgram Config.epd op a) (.wait :: rest) s)
    (hl : s.busyLevels = List.replicate k .high ++ bs)
    (hx : ∀ j < k, waitExpired Config.epd (s.waitCnt + j) = false) :
    execTimes i k s = .next (waited Config.epd k bs s) := by
  induction k generalizing s with
  | zero =>
    obtain rfl : s.busyLevels = bs := hl
    simp [waited, execTimes, iterate]
  | succ k ih =>
    have hcons : s.busyLevels = .high :: (List.replicate k .high ++ bs) := by
      rw [hl, List.replicate_succ, List.cons_append]
    have hfirst : exec i s = .next (waited Config.epd 1 (List.replicate k .high ++ bs) s) := by
      rw [exec_subStep hi hdue.running hdue.head, runSubStep, waitStep_backOff hcons (hx 0 (Nat.succ_pos k))]
      simp [waited]
    have hdue' : Due (microProgram Config.epd op a) (.wait :: rest) (waited Config.epd 1 (List.replicate k .high ++ bs) s) :=
      ⟨hdue.running, hdue.rest⟩
    rw [execTimes_succ hfirst, ih hdue' rfl fun j hj => ?_, waited_succ]
    have hnext := hx (j + 1) (Nat.succ_lt_succ hj)
    rwa [Nat.add_comm j 1, ← Nat.add_assoc] at hnext

omit hacc in
/-- From a `WAIT` before Idle at the end of a micro-program, with up to 100 busy reads, to completion. -/
theorem execTimes_lastWait {k : Nat} (hk : k ≤ 100) (hdue : Due (microProgram Config.epd op a) [.wait, .state .idle] s)
    (hcount : s.waitCnt = 0) (hl : s.busyLevels = List.replicate k .high ++ .low :: bs) :
    execTimes i (k + 3) s = .next (complete (passed Config.epd [.wait, .state .idle] s.pinAnswers s.sendAnswers bs
      (waited Config.epd k (.low :: bs) s))) := by
  have hwaits : execTimes i k s = .next (waited Config.epd k (.low :: bs) s) := execTimes_waits hi hdue hl fun j hj => by
    rw [hcount, Nat.zero_add]
    exact epd_not_expired hk hj
  have hdue' : Due (microProgram Config.epd op a) ([.wait, .state .idle] ++ []) (waited Config.epd k (.low :: bs) s) :=
    ⟨hdue.running, hdue.rest⟩
  have hpass : execTimes i 2 (waited Config.epd k (.low :: bs) s) = .next (passed Config.epd [.wait, .state .idle]
      s.pinAnswers s.sendAnswers bs (waited Config.epd k (.low :: bs) s)) :=
    ((executes_exec hi).passes trivial hdue' ⟨rfl, rfl, rfl⟩).1
  have hend := exec_end hi (s := passed Config.epd [.wait, .state .idle] s.pinAnswers s.sendAnswers bs
    (waited Config.epd k (.low :: bs) s)) hdue.running (by
      have hlen := congrArg List.length hdue.rest
      rw [List.length_drop] at hlen
      show s.pc + 2 = _
      simp only [List.length_cons, List.length_nil] at hlen
      omega)
  exact (execTimes_add hwaits 3).trans ((execTimes_add hpass 1).trans (execTimes_succ hend 0))

/-- A request whose micro-program ends with a `WAIT` and Idle, with up to 100 busy reads at the wait. -/
theorem execTimes_waiting {l : List SubStep} {k : Nat} {r : Regs} {evs : List Event} (hk : k ≤ 100)
    (hmp : microProgram Config.epd op a = l ++ [.wait, .state .idle])
    (hans : Answered l ps ss (List.replicate k .high ++ .low :: bs) s)
    (hregs : l.foldl (regsAfter Config.epd) (acceptedRegs s) = r) (hevs : l.flatMap (okEvents Config.epd) = evs) :
    execTimes i (k + (l.length + 4)) s = .next
      (finished op a (l.length + 2) { r with session := .idle, waitCnt := 0 } ps ss bs (evs ++ waitEvents k) s) := by
  subst hregs hevs
  have hdue := Due.passed (s := accepted op a s) ⟨rfl, hmp⟩ Config.epd ps ss (List.replicate k .high ++ .low :: bs)
  have hlast := execTimes_lastWait hi hk hdue (foldl_regsAfter_waitCnt rfl) rfl
  rw [show k + (l.length + 4) = l.length + 1 + (k + 3) by omega, execTimes_add (execTimes_accepted hi hacc hmp hans), hlast]
  have hwait : waitEvents k = (List.replicate k [Event.busyRead .high, .delay Config.epd.backoffMs]).flatten ++ [.busyRead .low] :=
    rfl
  simp [hwait, complete, State.respond, passed, finished, withRegs, regs, waited, accepted, acceptedRegs, regsAfter, okEvents]

end Run

/-! ### SETAREA (R136) -/

/-- Settles O27: four frames and two `STATE` sub-steps, run whole. -/
theorem setAreaSendsTheWindow : Obligations.SetAreaSendsTheWindow := by
  intro x0 y0 x1 y1 s ps ss hr hidle hx hxmax hy hymax hp hs
  have hi : decodeHost opSetArea ⟨x0, y0, x1, y1⟩ = .ok (.setarea ⟨x0, y0, x1, y1⟩) := rfl
  have hops : operandsOk Config.epd opSetArea ⟨x0, y0, x1, y1⟩ = true :=
    (operandsOk_epd _ _).mpr ⟨fun _ => ⟨hx, hxmax, hy, hymax⟩, nofun⟩
  have hacc := exec_accepts hi hr (.inr hidle) hops
  have hregs : (setAreaProgram ⟨x0, y0, x1, y1⟩).foldl (regsAfter Config.epd) (acceptedRegs s) =
      ⟨s.session, 0, s.lineRst, Config.epd.dcCmdLevel.other, .inactive⟩ := by
    rw [hidle]
    rfl
  have hevs : (setAreaProgram ⟨x0, y0, x1, y1⟩).flatMap (okEvents Config.epd) =
      cFrame Config.epd 0x44 ++ dFrame Config.epd [byteColumn x0, byteColumn x1] ++
        cFrame Config.epd 0x45 ++ dFrame Config.epd [lo y0, Machine.hi y0, lo y1, Machine.hi y1] := rfl
  refine ⟨hacc, (execTimes_whole hi hacc rfl ⟨hp, hs, rfl⟩ hregs hevs).trans ?_⟩
  simp only [finished, withRegs, List.append_assoc]
  rfl

/-! ### DISPLAY and SETPTR (R135, R137) -/

/-- Settles O26: four frames, then the wait. -/
theorem displayRefreshesAndWaits : Obligations.DisplayRefreshesAndWaits := by
  intro a s ps ss k bs hr hidle hp hs hl hk
  have hi : decodeHost opDisplay a = .ok (.display a) := rfl
  have hacc := exec_accepts hi hr (.inr hidle) rfl
  have hmp : microProgram Config.epd opDisplay a = displayProgram.take 5 ++ [.wait, .state .idle] := rfl
  have hevs : (displayProgram.take 5).flatMap (okEvents Config.epd) =
      cFrame Config.epd 0x22 ++ dFrame Config.epd [0xC4] ++ cFrame Config.epd 0x20 ++ cFrame Config.epd 0xFF := rfl
  refine ⟨hacc, (execTimes_waiting hi hacc hk hmp ⟨hp, hs, hl⟩ rfl hevs).trans ?_⟩
  rw [← hidle]
  simp only [finished, withRegs, List.append_assoc]
  rfl

/-- Settles O28: four frames, then the wait. -/
theorem setPtrSendsThePointerAndWaits : Obligations.SetPtrSendsThePointerAndWaits := by
  intro x y u v s ps ss k bs hr hidle hx hy hp hs hl hk
  have hi : decodeHost opSetPtr ⟨x, y, u, v⟩ = .ok (.setptr ⟨x, y, u, v⟩) := rfl
  have hops : operandsOk Config.epd opSetPtr ⟨x, y, u, v⟩ = true := (operandsOk_epd _ _).mpr ⟨nofun, fun _ => ⟨hx, hy⟩⟩
  have hacc := exec_accepts hi hr (.inr hidle) hops
  have hmp : microProgram Config.epd opSetPtr ⟨x, y, u, v⟩ =
      (.state .writingFrame :: setPointer x y) ++ [.wait, .state .idle] := rfl
  have hevs : (.state .writingFrame :: setPointer x y).flatMap (okEvents Config.epd) =
      cFrame Config.epd 0x4E ++ dFrame Config.epd [byteColumn x] ++
        cFrame Config.epd 0x4F ++ dFrame Config.epd [lo y, Machine.hi y] := rfl
  refine ⟨hacc, (execTimes_waiting hi hacc hk hmp ⟨hp, hs, hl⟩ rfl hevs).trans ?_⟩
  rw [← hidle]
  simp only [finished, withRegs, List.append_assoc]
  rfl

/-! ### INIT (R133) -/

theorem wireSubSteps_pair (i : Instr) {w : WireCode} (h : w.data ≠ []) : wireSubSteps i w = [.cmd i w.cmd, .data i w.data] := by
  unfold wireSubSteps
  split
  · next hd => exact absurd hd h
  · next hd => rw [hd]

theorem writeLut_pair (c : Config) :
    wireSubSteps .writeLut (codeWriteLut c) = [.cmd .writeLut 0x32, .data .writeLut c.lut.toList] := by
  have hne : (codeWriteLut c).data ≠ [] := by
    rw [codeWriteLut_data]
    exact lut_toList_ne_nil c
  rw [wireSubSteps_pair _ hne, codeWriteLut_data]
  rfl

/-- What the configuration frames of `Config.epd` send (R101 to R107). -/
theorem configSequence_okEvents :
    (configSequence Config.epd).flatMap (okEvents Config.epd) =
      cFrame Config.epd 0x01 ++ dFrame Config.epd [0xF9, 0x00, Config.epd.params.scanFlags] ++
      cFrame Config.epd 0x0C ++ dFrame Config.epd
        [Config.epd.params.booster[0], Config.epd.params.booster[1], Config.epd.params.booster[2]] ++
      cFrame Config.epd 0x2C ++ dFrame Config.epd [Config.epd.params.vcom] ++
      cFrame Config.epd 0x3A ++ dFrame Config.epd [Config.epd.params.dummyLine] ++
      cFrame Config.epd 0x3B ++ dFrame Config.epd [Config.epd.params.gateTime] ++
      cFrame Config.epd 0x11 ++ dFrame Config.epd [Config.epd.params.entryMode] ++
      cFrame Config.epd 0x32 ++ dFrame Config.epd Config.epd.lut.toList := by
  rw [configSequence, writeLut_pair]
  rfl

/-- Settles O24: the reset pulse, the configuration and the two events, run whole. -/
theorem initRunsToIdle : Obligations.InitRunsToIdle := by
  intro a s ps ss hr hp hs
  have hi : decodeHost opInit a = .ok (.init a) := rfl
  have hacc := exec_accepts hi hr (.inl rfl) rfl
  refine ⟨hacc, (execTimes_whole hi hacc (mp := initProgram Config.epd) rfl ⟨hp, hs, rfl⟩ rfl rfl).trans ?_⟩
  rw [initProgram_eq, List.flatMap_append, List.flatMap_append, configSequence_okEvents]
  simp only [finished, withRegs, List.append_assoc]
  rfl

/-! ### CLEAR (R134) -/

/-- The events of one row of CLEAR: its pointer, a busy read, its fill bytes. -/
def rowEvents (c : Config) (v : Byte) (row : Nat) : List Event :=
  cFrame c 0x4E ++ dFrame c [0x00] ++
  cFrame c 0x4F ++ dFrame c [lo (BitVec.ofNat 16 row), Machine.hi (BitVec.ofNat 16 row)] ++
  [.busyRead .low] ++
  cFrame c 0x24 ++ dFrame c (fillRow c v)

section Rows

variable {c : Config} (hw : 8 ≤ c.width.toNat)
include hw

theorem clearRows_okEvents (v : Byte) (row n : Nat) :
    (clearRows c v row n).flatMap (okEvents c) = (List.range' row n).flatMap (rowEvents c v) := by
  induction n generalizing row with
  | zero => rfl
  | succ n ih =>
    rw [clearRows, List.flatMap_append, ih, List.range'_succ, List.flatMap_cons, memWrite_eq _ _ (fillRow_ne_nil hw v)]
    rfl

/-- A row ends with its pointer's wait over and the select line at the Data level, as it began. -/
theorem clearRows_regs (v : Byte) (row n : Nat) (x : SessionState) (l : Level) :
    (clearRows c v row n).foldl (regsAfter c) ⟨x, 0, l, c.dcCmdLevel.other, .inactive⟩ =
      ⟨x, 0, l, c.dcCmdLevel.other, .inactive⟩ := by
  induction n generalizing row with
  | zero => rfl
  | succ n ih =>
    rw [clearRows, List.foldl_append, memWrite_eq _ _ (fillRow_ne_nil hw v)]
    exact ih (row + 1)

end Rows

theorem writesPin_eq_isFrame {sub : SubStep} (h : ∀ l, sub ≠ .rst l) : writesPin sub = sub.isFrame := by
  cases sub with
  | rst l => exact absurd rfl (h l)
  | _ => rfl

/-- Outside INIT the output pins are written by frames alone. -/
theorem countP_writesPin {c : Config} {op : Byte} {a : Operands} (hop : op ≠ opInit) :
    (microProgram c op a).countP writesPin = (microProgram c op a).countP SubStep.isFrame := by
  refine List.countP_congr fun sub hsub => ?_
  have hrst : ∀ l, sub ≠ .rst l := by
    rintro l rfl
    exact hop (init_of_mem hsub rfl nofun nofun)
  rw [writesPin_eq_isFrame hrst]

/-- A row number below 250 fits the low byte. -/
theorem rowEvents_epd {row : Nat} (h : row < 250) (v : Byte) :
    rowEvents Config.epd v row =
      cFrame Config.epd 0x4E ++ dFrame Config.epd [0x00] ++
      cFrame Config.epd 0x4F ++ dFrame Config.epd [BitVec.ofNat 8 row, 0x00] ++
      [.busyRead .low] ++
      cFrame Config.epd 0x24 ++ dFrame Config.epd (List.replicate 16 v) := by
  have hlo : lo (BitVec.ofNat 16 row) = BitVec.ofNat 8 row := by
    apply BitVec.eq_of_toNat_eq
    rw [lo_toNat, BitVec.toNat_ofNat, BitVec.toNat_ofNat]
    omega
  have hhi : Machine.hi (BitVec.ofNat 16 row) = 0x00 := by
    apply BitVec.eq_of_toNat_eq
    rw [hi_toNat, BitVec.toNat_ofNat]
    show _ = 0
    omega
  rw [rowEvents, hlo, hhi]
  rfl

theorem epd_height : Config.epd.height.toNat = 250 := by decide

theorem clearProgram_epd_okEvents (a : Operands) :
    (clearProgram Config.epd a).flatMap (okEvents Config.epd) =
      cFrame Config.epd 0x44 ++ dFrame Config.epd [0x00, 0x0F] ++
      cFrame Config.epd 0x45 ++ dFrame Config.epd [0x00, 0x00, 0xF9, 0x00] ++
      ((List.range 250).flatMap fun row =>
        cFrame Config.epd 0x4E ++ dFrame Config.epd [0x00] ++
        cFrame Config.epd 0x4F ++ dFrame Config.epd [BitVec.ofNat 8 row, 0x00] ++
        [.busyRead .low] ++
        cFrame Config.epd 0x24 ++ dFrame Config.epd (List.replicate 16 (fillValue a))) := by
  have hrows : (clearRows Config.epd (fillValue a) 0 250).flatMap (okEvents Config.epd) =
      (List.range 250).flatMap (rowEvents Config.epd (fillValue a)) := by
    rw [clearRows_okEvents (by decide), List.range_eq_range']
  have hwindow : (.state .writingFrame :: setWindow 0 0 (xMax Config.epd) (yMax Config.epd)).flatMap (okEvents Config.epd) =
      cFrame Config.epd 0x44 ++ dFrame Config.epd [0x00, 0x0F] ++
        cFrame Config.epd 0x45 ++ dFrame Config.epd [0x00, 0x00, 0xF9, 0x00] := rfl
  have hidle : [SubStep.state .idle].flatMap (okEvents Config.epd) = [] := rfl
  rw [clearProgram_eq, epd_height, List.flatMap_append, List.flatMap_append, hwindow, hrows, hidle, List.append_nil,
    List.flatMap_congr fun row hrow => rowEvents_epd (List.mem_range.mp hrow) (fillValue a)]

theorem clearProgram_epd_regs (a : Operands) {s : State} (hidle : s.session = .idle) :
    (clearProgram Config.epd a).foldl (regsAfter Config.epd) (acceptedRegs s) =
      ⟨s.session, 0, s.lineRst, Config.epd.dcCmdLevel.other, .inactive⟩ := by
  have hwindow : (.state .writingFrame :: setWindow 0 0 (xMax Config.epd) (yMax Config.epd)).foldl (regsAfter Config.epd)
      (acceptedRegs s) = ⟨.writingFrame, 0, s.lineRst, Config.epd.dcCmdLevel.other, .inactive⟩ := rfl
  rw [clearProgram_eq, List.foldl_append, List.foldl_append, hwindow, clearRows_regs (by decide), hidle]
  rfl

/-- Settles O25: the window and 250 rows, run whole; the counts are those of O40. -/
theorem clearWritesEveryRow : Obligations.ClearWritesEveryRow := by
  intro a s ps ss bs hr hidle hp hs hl
  have hi : decodeHost opClear a = .ok (.clear a) := rfl
  have hacc := exec_accepts hi hr (.inr hidle) rfl
  have hmp : microProgram Config.epd opClear a = clearProgram Config.epd a := rfl
  obtain ⟨hlen, hframes, hwaits, -⟩ := clearProgramWritesRowByRow Config.epd a (by decide)
  rw [epd_height] at hlen hframes hwaits
  have hpins := countP_writesPin (c := Config.epd) (a := a) (by decide : opClear ≠ opInit)
  rw [hmp] at hpins
  have hans : Answered (clearProgram Config.epd a) ps ss bs s := by
    refine ⟨?_, ?_, ?_⟩
    · rw [hpins, hframes, hp]
    · rw [hframes, hs]
    · rw [hwaits, hl]
  have hrun := execTimes_whole hi hacc hmp hans (clearProgram_epd_regs a hidle) (clearProgram_epd_okEvents a)
  rw [hlen] at hrun
  refine ⟨hacc, hrun.trans ?_⟩
  simp only [finished, withRegs, List.append_assoc]
  rfl

/-! ### INIT to a bus fault on its third frame (R75) -/

/-- The latches hold an operation, and block reset is never asserted. -/
def Latched (op : Byte) (a : Operands) (s : State) : Prop := s.op = op ∧ s.a = a ∧ s.resetIn = []

/-- The block's own step executes the micro-program of the latched operation. -/
theorem executes_step (op : Byte) (a : Operands) :
    Executes Config.epd step (Latched op a) (microProgram Config.epd op a) where
  subStep := by
    rintro s sub ⟨rfl, rfl, hreset⟩ hr hsub
    have hown : stepOf Config.epd s = sequencerStep Config.epd s := by rw [stepOf, hreset]
    rw [step_eq, hown, sequencerStep_subStep hr hsub]
  keeps := by
    rintro s sub ⟨hop, ha, hreset⟩
    obtain ⟨hop', ha', -, hreset'⟩ := runSubStep_keeps Config.epd sub s
    exact ⟨hop'.trans hop, ha'.trans ha, hreset'.trans hreset⟩

/-- A ready block to which nothing is presented stays. -/
theorem run_idle {s : State} (hreset : s.resetIn = []) (hr : s.running = false) (hq : s.reqs = []) (k : Nat) :
    run k s = .next s := by
  have hstep : step s = .next s := by simp [step_eq, stepOf, hreset, sequencerStep, hr, hq]
  induction k with
  | zero => rfl
  | succ k ih => exact (iterate_succ hstep k).trans ih

/-- The sub-steps of INIT before its third frame. -/
def beforeFrameThree (c : Config) : List SubStep := (initProgram c).take 9

theorem beforeFrameThree_okEvents :
    (beforeFrameThree Config.epd).flatMap (okEvents Config.epd) =
      [.pinWrite .rst .low, .delay 200, .pinWrite .rst .high, .delay 200, .event .reset] ++
        cFrame Config.epd 0x01 ++ dFrame Config.epd [0xF9, 0x00, Config.epd.params.scanFlags] := rfl

/-- A fault of the send at the third frame of INIT aborts with BUS there. -/
theorem step_frameThree_sendFault {u : State} {a : Operands} {ps ss : List Answer} (hlatched : Latched 0x00 a u)
    (hr : u.running = true) (hpc : u.pc = 9) (hp : u.pinAnswers = .ok :: ps) (hs : u.sendAnswers = .fault :: ss) :
    ∃ t n, step u = .next t ∧ t.running = false ∧ t.pc = 9 ∧ t.session = u.session ∧ t.result = ⟨true, .initError, .bus⟩ ∧
      t.trace = u.trace ++ [.pinWrite .dc Config.epd.dcCmdLevel, .sendFault [0x0C] n, .response .initError .bus] ∧
      t.resetIn = [] ∧ t.reqs = u.reqs := by
  have hsub : (microProgram Config.epd 0x00 a)[u.pc]? = some (.cmd .boosterSoftStart 0x0C) := by
    rw [hpc]
    rfl
  have hclass : classOf u.op = .initError := by
    rw [hlatched.1]
    rfl
  refine ⟨_, min (Config.freeDelivered u.draws) 1, (executes_step 0x00 a).subStep hlatched hr hsub, ?_⟩
  rw [runSubStep, sendFrame_sendFault hp hs, hclass]
  exact ⟨rfl, hpc, rfl, rfl, rfl, hlatched.2.2, rfl⟩

/-- Settles O37: nine sub-steps succeed, the send of the third frame faults, and an aborted block without a request stays. -/
theorem busFaultOnFrameThreeStopsInitialisation : Obligations.BusFaultOnFrameThreeStopsInitialisation := by
  refine ⟨fun c => ⟨rfl, rfl⟩, fun s req ps ss hr hreset hq hop hp hs => ?_⟩
  have hacc := step_accepts_init (.inl hreset) hr hq hop
  generalize hu : accepted 0x00 (reqOperands req) { afterResetInput s with reqs := [] } = u at hacc
  have hlatched : Latched 0x00 (reqOperands req) u := by
    rw [← hu]
    exact ⟨rfl, rfl, by simp [accepted, afterResetInput, hreset]⟩
  have hdue : Due (initProgram Config.epd) (beforeFrameThree Config.epd ++ (initProgram Config.epd).drop 9) u := by
    rw [← hu]
    exact ⟨rfl, rfl⟩
  have hans : Answered (beforeFrameThree Config.epd) (.ok :: ps) (.fault :: ss) s.busyLevels u := by
    rw [← hu]
    exact ⟨hp, hs, rfl⟩
  obtain ⟨hrun, hlatched'⟩ := (executes_step 0x00 (reqOperands req)).passes hlatched hdue hans
  have hpc : (passed Config.epd (beforeFrameThree Config.epd) (.ok :: ps) (.fault :: ss) s.busyLevels u).pc = 9 := by
    rw [← hu]
    rfl
  obtain ⟨t, n, hfault, hstop, hpc', hsession, hresult, htrace, hreset', hreqs⟩ :=
    step_frameThree_sendFault hlatched' hdue.running hpc rfl rfl
  refine ⟨t, n, (iterate_succ hacc 10).trans ((iterate_add hrun 1).trans (iterate_succ hfault 0)), hstop, hpc', hsession,
    hresult, ?_, run_idle hreset' hstop ?_⟩
  · have hkept : u.trace = s.trace := by
      rw [← hu]
      rfl
    rw [htrace, passed, beforeFrameThree_okEvents, hkept]
    simp only [List.append_assoc]
  · rw [hreqs, ← hu]
    rfl

end Sys2Proof.Proofs.WholeOperations
end
